-- ==== Sys2Proof/Word.lean ====
section
/-! DEFINITION. The word types of IP4HC: every quantity is an unsigned number of a stated width (00_scope section 5). -/

namespace Sys2Proof

/-- One byte of BUF, PAY or the wire (30_encoding R60). -/
abbrev Byte := BitVec 8

/-- A 16-bit number: lengths, checksums, identification. -/
abbrev Half := BitVec 16

/-- A 32-bit number: the register data port, addresses, one option word (00_scope R5). -/
abbrev Word := BitVec 32

/-- One access descriptor of format A (30_encoding R75). -/
abbrev Descriptor := BitVec 51

end Sys2Proof
end

