-- ==== Sys2Proof/Syntax.lean ====
section
/-! DEFINITION. The instructions of IP4HC: one constructor of Instr for each row of spec/opcode_table.json. -/

namespace Sys2Proof

/-- The four commands, by name (30_encoding R76). -/
inductive Command where
  /-- `decode(buffer)`, op code 0 (41_decode R91). -/
  | decode
  /-- `encode(header)`, op code 1 (42_encode R111). -/
  | encode
  /-- `computeChecksum(header)`, op code 2 (43_checksum R129). -/
  | csum
  /-- `verifyChecksum(header)`, op code 3 (43_checksum R131). -/
  | verify
  deriving DecidableEq, Repr

/-- The kind field of an access descriptor, bits 50:48 (30_encoding R75). -/
inductive Kind where
  | rd | wr | ldb | stb | ldp | stp
  /-- Kinds 6 and 7 (30_encoding R77). -/
  | reserved
  deriving DecidableEq, Repr

/-- One host access, as the descriptor says it. Fields the table calls ignored are not kept. -/
inductive Instr where
  /-- WR CMD, 0. -/
  | decode
  /-- WR CMD, 1. -/
  | encode
  /-- WR CMD, 2. -/
  | csum
  /-- WR CMD, 3. -/
  | verify
  /-- Read register number `index`. -/
  | rd (index : BitVec 16)
  /-- Write `data` to register number `index`; the four command rows are not this constructor. -/
  | wr (index : BitVec 16) (data : Word)
  /-- Read BUF[index]. -/
  | ldb (index : BitVec 16)
  /-- Write BUF[index]; all 32 data bits are kept, since bits 31:8 decide the response. -/
  | stb (index : BitVec 16) (data : Word)
  /-- Read PAY[index]. -/
  | ldp (index : BitVec 16)
  /-- Write PAY[index]; all 32 data bits are kept, since bits 31:8 decide the response. -/
  | stp (index : BitVec 16) (data : Word)
  /-- A descriptor of kind 6 or 7. -/
  | reserved (kind : BitVec 3)
  deriving DecidableEq, Repr

/-- The registers by name (30_encoding R78). -/
inductive Reg where
  | ver | ihl | dscp | ecn | tlen | id | flags | foff | ttl | proto | hcsum | src | dst
  | nopt | plen
  | opt (k : Fin 10)
  | cmd | status | result | ereq | eact | blen
  deriving DecidableEq, Repr

end Sys2Proof
end

