-- ==== Sys2Proof/WellFormed.lean ====
section
/-! DEFINITION. Which instruction terms stand for a descriptor of their own row of the opcode table. -/

namespace Sys2Proof

/-- A WR of 0 to 3 to CMD is a command row and no WR row (opcode_table.json, note on WR); the reserved row is kinds 6
and 7 alone (30_encoding R77). Every other term is well-formed: no index and no data is shut out. -/
def Instr.wellFormed : Instr → Bool
  | .wr index data => !(index == 32#16 && decide (data.toNat < 4))
  | .reserved kind => kind == 6#3 || kind == 7#3
  | .decode | .encode | .csum | .verify => true
  | .rd _ | .ldb _ | .ldp _ => true
  | .stb _ _ | .stp _ _ => true

end Sys2Proof
end

