-- ==== Sys2Proof/Decode.lean ====
section
/-! DEFINITION. The decoder of access descriptors (30_encoding part B), total on all 2^51 of them, and the encoder. -/

namespace Sys2Proof

/-- Why a number read as an instruction word is no access descriptor. -/
inductive DecodeError where
  /-- A bit at or above bit 51 is set: a descriptor has 51 bits (30_encoding R75). -/
  | widerThanDescriptor
  deriving DecidableEq, Repr

/-- The kind field, bits 50:48. -/
def kindField (d : Descriptor) : BitVec 3 := d.extractLsb' 48 3

/-- The index field, bits 47:32. -/
def indexField (d : Descriptor) : BitVec 16 := d.extractLsb' 32 16

/-- The data field, bits 31:0. -/
def dataField (d : Descriptor) : Word := d.extractLsb' 0 32

/-- A descriptor of kind 1: the four command rows are tested before the WR row (opcode_table.json, note on WR). -/
def decodeWrite (index : BitVec 16) (data : Word) : Instr :=
  if index = 32#16 then
    if data = 0#32 then .decode
    else if data = 1#32 then .encode
    else if data = 2#32 then .csum
    else if data = 3#32 then .verify
    else .wr index data
  else .wr index data

/-- The instruction a descriptor stands for (30_encoding R75 to R77). -/
def decodeDescriptor (d : Descriptor) : Instr :=
  match (kindField d).toNat with
  | 0 => .rd (indexField d)
  | 1 => decodeWrite (indexField d) (dataField d)
  | 2 => .ldb (indexField d)
  | 3 => .stb (indexField d) (dataField d)
  | 4 => .ldp (indexField d)
  | 5 => .stp (indexField d) (dataField d)
  | _ => .reserved (kindField d)

/-- A number of `nbits` bits as a descriptor, refused by name when it is wider than one. -/
def descriptorOfWord (nbits w : Nat) : Except DecodeError Descriptor :=
  if w % 2 ^ nbits < 0x8000000000000 then .ok (BitVec.ofNat 51 (w % 2 ^ nbits)) else .error .widerThanDescriptor

/-- What the decoder reads from an instruction word of the opcode table's numbering. The hardware carries a descriptor
as one 51-bit word, so the table's numbering is the descriptor's own. -/
def decodeTableWord (nbits w : Nat) : Option Instr :=
  match descriptorOfWord nbits w with
  | .ok d => some (decodeDescriptor d)
  | .error _ => none

/-- Kind in bits 50:48, index in bits 47:32, data in bits 31:0 (30_encoding R75). -/
def packDescriptor (kind : BitVec 3) (index : BitVec 16) (data : Word) : Descriptor :=
  BitVec.ofNat 51 (kind.toNat * 0x1000000000000 + index.toNat * 0x100000000 + data.toNat)

/-- The descriptor of an instruction, ignored fields zero (opcode_table.json, the encoding strings). -/
def encodeDescriptor : Instr → Descriptor
  | .decode => packDescriptor 1#3 32#16 0#32
  | .encode => packDescriptor 1#3 32#16 1#32
  | .csum => packDescriptor 1#3 32#16 2#32
  | .verify => packDescriptor 1#3 32#16 3#32
  | .rd index => packDescriptor 0#3 index 0#32
  | .wr index data => packDescriptor 1#3 index data
  | .ldb index => packDescriptor 2#3 index 0#32
  | .stb index data => packDescriptor 3#3 index data
  | .ldp index => packDescriptor 4#3 index 0#32
  | .stp index data => packDescriptor 5#3 index data
  | .reserved kind => packDescriptor kind 0#16 0#32

end Sys2Proof
end

