-- ==== Sys2Proof/Machine/State.lean ====
section
/-! DEFINITION. The state of one IP4HC block as plain data, its reset value, and the reasons a step can stop. -/

namespace Sys2Proof.Machine

/-- The thirteen scalar fields of a header value, which are the thirteen scalar header registers (10_state R11). -/
structure Fields where
  /-- VER, register 0. -/
  version : BitVec 4
  /-- IHL, register 1: stored, possibly stale, read by no command (10_state R15). -/
  ihl : BitVec 4
  /-- DSCP, register 2. -/
  dscp : BitVec 6
  /-- ECN, register 3. -/
  ecn : BitVec 2
  /-- TLEN, register 4: stored, possibly stale, read by no command (10_state R15). -/
  totalLength : Half
  /-- ID, register 5. -/
  identification : Half
  /-- FLAGS, register 6: one 3-bit number (30_encoding R73). -/
  flags : BitVec 3
  /-- FOFF, register 7, in its 8-byte units. -/
  fragmentOffset : BitVec 13
  /-- TTL, register 8. -/
  ttl : Byte
  /-- PROTO, register 9. -/
  protocol : Byte
  /-- HCSUM, register 10. -/
  headerChecksum : Half
  /-- SRC, register 11. -/
  src : Word
  /-- DST, register 12. -/
  dst : Word
  deriving DecidableEq, Repr

/-- The header value: scalar fields, options, payload (00_scope section 5, 10_state R13). -/
structure HeaderValue where
  fields : Fields
  options : List Word
  payload : List Byte
  deriving DecidableEq, Repr

/-- A byte memory: the cells something has written since reset, addresses strictly rising. An unlisted cell has no
value here; what a read of it gives is `Config.unwrittenBuf` or `Config.unwrittenPay` (20_memory R54). -/
abbrev Memory := List Host.Cell

/-- The typed errors a command can end with (60_exceptions R165). -/
inductive CodecError where
  /-- E_TOO_SHORT with the required and the actual length (R166). -/
  | tooShort (required actual : Nat)
  /-- E_LENGTH_MISMATCH (R167). -/
  | lengthMismatch
  /-- E_MALFORMED (R168). -/
  | malformed
  /-- E_TOO_MANY_OPTIONS (R169). -/
  | tooManyOptions
  /-- E_LEN_OVERFLOW (R170). -/
  | lenOverflow
  deriving DecidableEq, Repr

/-- The access responses (60_exceptions R171). -/
inductive Response where
  /-- A_OK. -/
  | ok
  /-- A_BADREG. -/
  | badReg
  /-- A_BUSY. -/
  | busy
  /-- A_RANGE. -/
  | range
  deriving DecidableEq, Repr

/-- What the bus answers to one host access: a response and, for a read answered A_OK, 32 bits (30_encoding R75). -/
structure Answer where
  response : Response
  data : Option Word
  deriving DecidableEq, Repr

/-- What the outside world can do to the block: one host access, or the reset input (44_access, 70 R190). -/
inductive HostEvent where
  | access (d : Descriptor)
  | reset
  deriving DecidableEq, Repr

/-- The state of one block. The first group is the spec's (10_state R10 says it is all of it); the last six fields are
the model's own: the inputs and the answer of the bus (10_state R29 says none of them is state of the block). -/
structure State where
  /-- The thirteen scalar header registers. -/
  hdr : Fields
  /-- NOPT, register 13 (10_state R12). -/
  nopt : BitVec 4
  /-- PLEN, register 14 (10_state R12). -/
  plen : Half
  /-- OPT[0] to OPT[9], registers 16 to 25 (10_state R16). -/
  opt : Vector Word 10
  /-- STATUS.BUSY (10_state R18). -/
  busy : Bool
  /-- STATUS.DONE (10_state R18). -/
  done : Bool
  /-- STATUS.ERR (10_state R18). -/
  err : BitVec 3
  /-- RESULT, register 34 (10_state R20). -/
  result : Half
  /-- EREQ, register 35 (10_state R21). -/
  ereq : Half
  /-- EACT, register 36 (10_state R21). -/
  eact : Half
  /-- BLEN, register 37 (10_state R22). -/
  blen : Half
  /-- BUF, 65535 bytes (10_state R23). -/
  buf : Memory
  /-- PAY, 65515 bytes (10_state R24). -/
  pay : Memory
  /-- LOP, the latched op code; without meaning while BUSY is 0 (10_state R25). -/
  lop : Command
  /-- MODEL'S OWN: the host events still to come, oldest first (20_memory R50). Log entry 4. -/
  pending : List HostEvent
  /-- MODEL'S OWN: the bus's answer to the most recent host access. Log entry 5. -/
  answer : Option Answer
  /-- MODEL'S OWN: how many more host events are answered before the completion. Log entry 1. -/
  delay : Nat
  /-- MODEL'S OWN: how many commands have been issued. Log entry 1. -/
  issues : Nat
  /-- MODEL'S OWN: how many reset events have happened. Log entry 2. -/
  epoch : Nat
  /-- MODEL'S OWN: which copy of the block this is, an argument of the free values and of nothing else; no step changes it and
  the host cannot read it (60_exceptions R181: no identifier register). Log entry 7. -/
  copy : Nat
  deriving DecidableEq, Repr

/-- The all-zero header registers (10_state R27). -/
def Fields.reset : Fields :=
  { version := 0, ihl := 0, dscp := 0, ecn := 0, totalLength := 0, identification := 0, flags := 0, fragmentOffset := 0,
    ttl := 0, protocol := 0, headerChecksum := 0, src := 0, dst := 0 }

/-- The state right after reset (10_state R27). LOP is unspecified there: DESIGN CHOICE, log entry 3. -/
def State.reset : State :=
  { hdr := Fields.reset, nopt := 0, plen := 0, opt := Vector.replicate 10 0#32, busy := false, done := false, err := 0,
    result := 0, ereq := 0, eact := 0, blen := 0, buf := [], pay := [], lop := .decode, pending := [], answer := none,
    delay := 0, issues := 0, epoch := 0, copy := 0 }

/-- Faults that stop the machine: none. Every malformed input is a typed error reported in STATUS (60_exceptions) and
every descriptor has a defined response (30_encoding R77), so nothing raises one; safe. -/
inductive Fault where
  deriving DecidableEq, Repr

/-- Reasons a step is refused. -/
inductive Refusal where
  /-- Raised by an arm of `exec` whose instruction has no meaning yet; no arm raises it now; safe. -/
  | notModelled (mnemonic : String)
  deriving DecidableEq, Repr

end Sys2Proof.Machine
end

