-- ==== Sys2Proof/Machine/Flags.lean ====
section
/-! DEFINITION. STATUS, the block's only set of condition flags (10_state R18). -/

namespace Sys2Proof.Machine

/-- The 5 bits of STATUS: BUSY bit 0, DONE bit 1, ERR bits 4:2 (10_state R18). -/
def State.statusBits (s : State) : BitVec 5 := BitVec.ofNat 5 (s.err.toNat * 4 + s.done.toNat * 2 + s.busy.toNat)

/-- STATUS as it is read: bits 31 to 5 zero (10_state R18). -/
def State.statusWord (s : State) : Word := s.statusBits.setWidth 32

end Sys2Proof.Machine
end

