-- ==== Sys2Proof/Config.lean ====
section
/-! DEFINITION. What the spec leaves open, as free values: constants with no body, so no proof can lean on a value. Each takes
the number of the copy it is of, so the values of two copies are unrelated (60_exceptions R181). -/

namespace Sys2Proof

/-- LATENCY (70_reset_and_hazards R198, 92 D26): how many host events are answered between the issue of command `c` in state
`s` and its completion. It may differ for each command, each input, each copy and each issue, all of which are in `c` and
`s`; being a natural number it is finite (R199). Log entry 1. -/
opaque Config.latency (c : Command) (s : Machine.State) : Nat

/-- The byte that cell `index` of BUF of copy `copy` holds before anything has written it, after `epoch` reset events
(20_memory R54, 10_state R27: each cell holds some byte). Log entry 2. -/
opaque Config.unwrittenBuf (copy epoch index : Nat) : Byte

/-- The same for PAY. Log entry 2. -/
opaque Config.unwrittenPay (copy epoch index : Nat) : Byte

end Sys2Proof
end

