-- ==== Sys2Proof/Machine/Ops.lean ====
section
/-! DEFINITION. The operations the meanings share: byte memories, the answer of the bus, the end of a command. -/

namespace Sys2Proof.Machine

/-- The byte of cell `a`, if something has written it since reset (20_memory R54). -/
def Memory.read? (m : Memory) (a : Nat) : Option Byte :=
  match m with
  | [] => none
  | (b, v) :: rest => if a = b then some v else Memory.read? rest a

/-- Writing one cell; the addresses stay strictly rising. -/
def Memory.write (m : Memory) (a : Nat) (v : Byte) : Memory :=
  match m with
  | [] => [(a, v)]
  | (b, w) :: rest =>
    if a < b then (a, v) :: (b, w) :: rest
    else if a = b then (a, v) :: rest
    else (b, w) :: Memory.write rest a v

/-- Writing consecutive cells from `a` on, in ascending index order (20_memory R45). -/
def Memory.writeBytes (m : Memory) (a : Nat) : List Byte → Memory
  | [] => m
  | v :: rest => Memory.writeBytes (Memory.write m a v) (a + 1) rest

/-- The canonical form: addresses strictly rising. An unlisted cell holds no value, so no entry equals one. -/
def Memory.wf : Memory → Bool
  | [] => true
  | [_] => true
  | (a, _) :: (b, w) :: rest => decide (a < b) && Memory.wf ((b, w) :: rest)

/-- Every listed cell exists in a memory of `size` bytes (20_memory R40). -/
def Memory.within (size : Nat) (m : Memory) : Bool := m.all fun cell => decide (cell.1 < size)

/-- BUF[i]: what was written, or the byte the cell happens to hold (20_memory R54). -/
def State.bufByte (s : State) (i : Nat) : Byte := (s.buf.read? i).getD (Config.unwrittenBuf s.copy s.epoch i)

/-- PAY[i], likewise. -/
def State.payByte (s : State) (i : Nat) : Byte := (s.pay.read? i).getD (Config.unwrittenPay s.copy s.epoch i)

/-- The buffer, BUF[0..BLEN-1] (10_state R22). -/
def State.buffer (s : State) : List Byte := (List.range s.blen.toNat).map s.bufByte

/-- The payload, PAY[0..PLEN-1] (10_state R24). -/
def State.payload (s : State) : List Byte := (List.range s.plen.toNat).map s.payByte

/-- The option words that have storage, OPT[0..NOPT-1] for NOPT up to 10 (10_state R16). -/
def State.options (s : State) : List Word := s.opt.toList.take s.nopt.toNat

/-- The header value the state stands for, defined for NOPT up to 10 and PLEN up to 65515 (10_state R13). -/
def State.headerValue (s : State) : HeaderValue :=
  { fields := s.hdr, options := s.options, payload := s.payload }

/-- STB: one cell of BUF (44_access R147). -/
def State.writeBuf (s : State) (i : Nat) (v : Byte) : State := { s with buf := s.buf.write i v }

/-- STP: one cell of PAY (44_access R150). -/
def State.writePay (s : State) (i : Nat) (v : Byte) : State := { s with pay := s.pay.write i v }

/-- Option registers 0 to `ws.length - 1` take the words, the others keep theirs (41_decode R91). -/
def writeOptions (opt : Vector Word 10) (ws : List Word) : Vector Word 10 :=
  opt.mapIdx fun k old => ws[k]?.getD old

/-- The op code of a command (30_encoding R76). -/
def opCode : Command → BitVec 2
  | .decode => 0#2
  | .encode => 1#2
  | .csum => 2#2
  | .verify => 3#2

/-- The command of an op code; all four values are assigned (30_encoding R77). -/
def commandOf (c : BitVec 2) : Command :=
  if c = 0#2 then .decode else if c = 1#2 then .encode else if c = 2#2 then .csum else .verify

/-- The code written to STATUS.ERR (60_exceptions R165). -/
def CodecError.code : CodecError → BitVec 3
  | .tooShort _ _ => 1#3
  | .lengthMismatch => 2#3
  | .malformed => 3#3
  | .tooManyOptions => 4#3
  | .lenOverflow => 5#3

/-- What EREQ is written with (60_exceptions R165, 10_state R21). -/
def CodecError.required : CodecError → Half
  | .tooShort required _ => BitVec.ofNat 16 required
  | .lengthMismatch | .malformed | .tooManyOptions | .lenOverflow => 0

/-- What EACT is written with (60_exceptions R165, 10_state R21). -/
def CodecError.actual : CodecError → Half
  | .tooShort _ actual => BitVec.ofNat 16 actual
  | .lengthMismatch | .malformed | .tooManyOptions | .lenOverflow => 0

/-- Taking an error: STATUS, EREQ and EACT are written and nothing else of the block (60_exceptions R175). -/
def State.raise (s : State) (e : CodecError) : State :=
  { s with err := e.code, ereq := e.required, eact := e.actual, busy := false, done := true, delay := 0 }

/-- The end of a command that succeeded: ERR, EREQ and EACT are 0 (41_decode R91, 42_encode R111, 43_checksum R129). LOP,
whose value 93 U15 leaves open while BUSY is 0, keeps the command's: DESIGN CHOICE, log entry 3. -/
def State.succeed (s : State) : State :=
  { s with err := 0, ereq := 0, eact := 0, busy := false, done := true, delay := 0 }

/-- The issue of a command: LOP, BUSY and DONE change, ERR, RESULT, EREQ and EACT keep their values (44_access R149).
The number of host events answered before the completion is drawn here, a free value of the command and the whole state. -/
def State.issue (s : State) (c : Command) : State :=
  { s with lop := c, busy := true, done := false, delay := Config.latency c s, issues := s.issues + 1 }

/-- The bus carries an answer. Responses are recorded nowhere else (60_exceptions R171). -/
def State.respond (s : State) (r : Response) (data : Option Word) : State := { s with answer := some ⟨r, data⟩ }

/-- The most recent access, if any, was answered A_OK. -/
def State.accepted (s : State) : Bool :=
  match s.answer with
  | none => true
  | some a => a.response == .ok

/-- The 32 bits the most recent access returned, as the host reads them; 0 where it returned none. -/
def State.readData (s : State) : Word := (s.answer.bind Answer.data).getD 0

/-- One host event is taken from those to come; while a command is in flight its completion comes one event nearer. -/
def State.takeEvent (s : State) (rest : List HostEvent) : State :=
  { s with pending := rest, delay := if s.busy then s.delay - 1 else s.delay }

/-- Whether the next step is the engine's: a command is in flight and its free number of host events has passed, or the
host has nothing to do (20_memory R46, 70 R198, R199). -/
def State.engineTurn (s : State) : Bool := s.busy && (s.delay == 0 || s.pending.isEmpty)

/-- A reset event (70 R190, R192): the reset state whatever the state was, a command in flight abandoned, the cells of BUF
and PAY unspecified afresh. The host events to come, the count of issued commands and the copy's number are no state of the
block. -/
def State.resetEvent (s : State) : State :=
  { State.reset with pending := s.pending, issues := s.issues, epoch := s.epoch + 1, copy := s.copy }

end Sys2Proof.Machine
end

