-- ==== Sys2Proof/Machine/Operands.lean ====
section
/-! DEFINITION. The register map (30_encoding R78): numbers, widths, access rights, the read and the write of each register. -/

namespace Sys2Proof.Machine

/-- The register of a number; reserved numbers and numbers from 38 on name none (30_encoding R78). -/
def regAt (index : BitVec 16) : Option Reg :=
  match index.toNat with
  | 0 => some .ver
  | 1 => some .ihl
  | 2 => some .dscp
  | 3 => some .ecn
  | 4 => some .tlen
  | 5 => some .id
  | 6 => some .flags
  | 7 => some .foff
  | 8 => some .ttl
  | 9 => some .proto
  | 10 => some .hcsum
  | 11 => some .src
  | 12 => some .dst
  | 13 => some .nopt
  | 14 => some .plen
  | 16 => some (.opt 0)
  | 17 => some (.opt 1)
  | 18 => some (.opt 2)
  | 19 => some (.opt 3)
  | 20 => some (.opt 4)
  | 21 => some (.opt 5)
  | 22 => some (.opt 6)
  | 23 => some (.opt 7)
  | 24 => some (.opt 8)
  | 25 => some (.opt 9)
  | 32 => some .cmd
  | 33 => some .status
  | 34 => some .result
  | 35 => some .ereq
  | 36 => some .eact
  | 37 => some .blen
  | _ => none

/-- The number of a register (30_encoding R78). -/
def regNumber : Reg → BitVec 16
  | .ver => 0 | .ihl => 1 | .dscp => 2 | .ecn => 3 | .tlen => 4 | .id => 5 | .flags => 6 | .foff => 7 | .ttl => 8
  | .proto => 9 | .hcsum => 10 | .src => 11 | .dst => 12 | .nopt => 13 | .plen => 14
  | .opt k => BitVec.ofNat 16 (16 + k.val)
  | .cmd => 32 | .status => 33 | .result => 34 | .ereq => 35 | .eact => 36 | .blen => 37

/-- The width of a register in bits (30_encoding R78). -/
def regWidth : Reg → Nat
  | .ver | .ihl | .nopt => 4
  | .dscp => 6
  | .ecn | .cmd => 2
  | .tlen | .id | .hcsum | .plen | .result | .ereq | .eact | .blen => 16
  | .flags => 3
  | .foff => 13
  | .ttl | .proto => 8
  | .src | .dst | .opt _ => 32
  | .status => 5

/-- Every register but CMD can be read (30_encoding R78, 10_state R19). -/
def regReadable (r : Reg) : Bool := r != .cmd

/-- The four result registers cannot be written (30_encoding R78, 44_access R155). -/
def regWritable : Reg → Bool
  | .status | .result | .ereq | .eact => false
  | .ver | .ihl | .dscp | .ecn | .tlen | .id | .flags | .foff | .ttl | .proto | .hcsum | .src | .dst => true
  | .nopt | .plen | .opt _ | .cmd | .blen => true

/-- The value of a register zero-extended to the 32-bit data port (10_state R30, 44_access R145); CMD holds nothing. -/
def readReg (s : State) : Reg → Option Word
  | .ver => some (s.hdr.version.setWidth 32)
  | .ihl => some (s.hdr.ihl.setWidth 32)
  | .dscp => some (s.hdr.dscp.setWidth 32)
  | .ecn => some (s.hdr.ecn.setWidth 32)
  | .tlen => some (s.hdr.totalLength.setWidth 32)
  | .id => some (s.hdr.identification.setWidth 32)
  | .flags => some (s.hdr.flags.setWidth 32)
  | .foff => some (s.hdr.fragmentOffset.setWidth 32)
  | .ttl => some (s.hdr.ttl.setWidth 32)
  | .proto => some (s.hdr.protocol.setWidth 32)
  | .hcsum => some (s.hdr.headerChecksum.setWidth 32)
  | .src => some s.hdr.src
  | .dst => some s.hdr.dst
  | .nopt => some (s.nopt.setWidth 32)
  | .plen => some (s.plen.setWidth 32)
  | .opt k => some s.opt[k]
  | .cmd => none
  | .status => some s.statusWord
  | .result => some (s.result.setWidth 32)
  | .ereq => some (s.ereq.setWidth 32)
  | .eact => some (s.eact.setWidth 32)
  | .blen => some (s.blen.setWidth 32)

/-- A register takes the low bits of the data, which is the whole value since it fits (44_access R146); a write to CMD is
the issue of a command (R149). The read-only registers are refused before this (R155) and keep their values. -/
def writeReg (s : State) (r : Reg) (v : Word) : State :=
  match r with
  | .ver => { s with hdr := { s.hdr with version := v.setWidth 4 } }
  | .ihl => { s with hdr := { s.hdr with ihl := v.setWidth 4 } }
  | .dscp => { s with hdr := { s.hdr with dscp := v.setWidth 6 } }
  | .ecn => { s with hdr := { s.hdr with ecn := v.setWidth 2 } }
  | .tlen => { s with hdr := { s.hdr with totalLength := v.setWidth 16 } }
  | .id => { s with hdr := { s.hdr with identification := v.setWidth 16 } }
  | .flags => { s with hdr := { s.hdr with flags := v.setWidth 3 } }
  | .foff => { s with hdr := { s.hdr with fragmentOffset := v.setWidth 13 } }
  | .ttl => { s with hdr := { s.hdr with ttl := v.setWidth 8 } }
  | .proto => { s with hdr := { s.hdr with protocol := v.setWidth 8 } }
  | .hcsum => { s with hdr := { s.hdr with headerChecksum := v.setWidth 16 } }
  | .src => { s with hdr := { s.hdr with src := v } }
  | .dst => { s with hdr := { s.hdr with dst := v } }
  | .nopt => { s with nopt := v.setWidth 4 }
  | .plen => { s with plen := v.setWidth 16 }
  | .opt k => { s with opt := s.opt.set k.val v k.isLt }
  | .cmd => s.issue (commandOf (v.setWidth 2))
  | .blen => { s with blen := v.setWidth 16 }
  | .status | .result | .ereq | .eact => s

end Sys2Proof.Machine
end

