-- ==== Sys2Proof/Machine/Access.lean ====
section
/-! DEFINITION. Host accesses (44_access): the common procedure, and the meanings of RD, WR, LDB, STB, LDP, STP and the
reserved kinds, with the issue half of the four commands. -/

namespace Sys2Proof.Machine

/-- Check 1 of the common procedure: the thing addressed exists and may be accessed this way (44_access R155). -/
def accessExists (kind : Kind) (index : BitVec 16) : Bool :=
  match kind with
  | .rd => (regAt index).any regReadable
  | .wr => (regAt index).any regWritable
  | .ldb | .stb => decide (index.toNat ≤ 65534)
  | .ldp | .stp => decide (index.toNat ≤ 65514)
  | .reserved => false

/-- Check 3 of the common procedure: the value fits the register or the byte (44_access R155, R154). -/
def accessFits (kind : Kind) (index : BitVec 16) (data : Word) : Bool :=
  match kind with
  | .wr => (regAt index).all fun r => decide (data.toNat < 2 ^ regWidth r)
  | .stb | .stp => decide (data.toNat < 256)
  | .rd | .ldb | .ldp | .reserved => true

/-- The response of a host access: existence, then the busy interlock, then fit (44_access R155, 60_exceptions R174). -/
def accessCheck (kind : Kind) (index : BitVec 16) (data : Word) (busy : Bool) : Response :=
  if !accessExists kind index then .badReg
  else if busy && !(kind == .rd && index == 33#16) then .busy
  else if !accessFits kind index data then .range
  else .ok

/-- The common procedure (44_access R155): an access answered A_OK is performed, and any other changes nothing of the
block and returns no data. `perform` gives the state after the access and the data it returns. -/
def hostAccess (kind : Kind) (index : BitVec 16) (data : Word) (perform : State → State × Option Word) (s : State) :
    Host.Outcome State Fault Refusal :=
  match accessCheck kind index data s.busy with
  | .ok => .next ((perform s).1.respond .ok (perform s).2)
  | .badReg => .next (s.respond .badReg none)
  | .busy => .next (s.respond .busy none)
  | .range => .next (s.respond .range none)

/-- RD (44_access R145). -/
def execRd (index : BitVec 16) (s : State) : Host.Outcome State Fault Refusal :=
  hostAccess .rd index 0#32 (fun s => (s, (regAt index).bind (readReg s))) s

/-- WR (44_access R146; a write to CMD is R149). -/
def execWr (index : BitVec 16) (data : Word) (s : State) : Host.Outcome State Fault Refusal :=
  hostAccess .wr index data (fun s => (((regAt index).map fun r => writeReg s r data).getD s, none)) s

/-- LDB (44_access R147). -/
def execLdb (index : BitVec 16) (s : State) : Host.Outcome State Fault Refusal :=
  hostAccess .ldb index 0#32 (fun s => (s, some ((s.bufByte index.toNat).setWidth 32))) s

/-- STB (44_access R147). -/
def execStb (index : BitVec 16) (data : Word) (s : State) : Host.Outcome State Fault Refusal :=
  hostAccess .stb index data (fun s => (s.writeBuf index.toNat (data.setWidth 8), none)) s

/-- LDP (44_access R150). -/
def execLdp (index : BitVec 16) (s : State) : Host.Outcome State Fault Refusal :=
  hostAccess .ldp index 0#32 (fun s => (s, some ((s.payByte index.toNat).setWidth 32))) s

/-- STP (44_access R150). -/
def execStp (index : BitVec 16) (data : Word) (s : State) : Host.Outcome State Fault Refusal :=
  hostAccess .stp index data (fun s => (s.writePay index.toNat (data.setWidth 8), none)) s

/-- A descriptor of kind 6 or 7: A_BADREG, whether or not a command is in flight (30_encoding R77). -/
def execReserved (_kind : BitVec 3) (s : State) : Host.Outcome State Fault Refusal :=
  hostAccess .reserved 0#16 0#32 (fun s => (s, none)) s

/-- WR CMD, op for the op code of command `c` (44_access R149): like any write, and when accepted the issue step. -/
def issueCommand (c : Command) (s : State) : Host.Outcome State Fault Refusal :=
  hostAccess .wr 32#16 ((opCode c).setWidth 32) (fun s => (s.issue c, none)) s

end Sys2Proof.Machine
end

