-- ==== Sys2Proof/Machine/Wire.lean ====
section
/-! DEFINITION. The wire format of the IPv4 header (30_encoding part A): byte order, bit fields, the encoded header bytes,
and the invariants of a header value. -/

namespace Sys2Proof.Machine

/-- Two bytes as a 16-bit number, the first most significant (20_memory R41). -/
def beHalf (b0 b1 : Byte) : Half := BitVec.ofNat 16 (b0.toNat * 256 + b1.toNat)

/-- Four bytes as a 32-bit number, the first most significant (20_memory R41). -/
def beWord (b0 b1 b2 b3 : Byte) : Word :=
  BitVec.ofNat 32 (b0.toNat * 0x1000000 + b1.toNat * 0x10000 + b2.toNat * 0x100 + b3.toNat)

/-- Two fields in one byte: `(hi << width) | lo`, where `lo` has `width` bits (43_checksum R138: they never overlap). -/
def packByte {m n : Nat} (hi : BitVec m) (lo : BitVec n) : Byte := (hi.setWidth 8 <<< n) ||| lo.setWidth 8

/-- The two bytes of a 16-bit number, most significant first (20_memory R41). -/
def halfBytes (v : Half) : List Byte := [v.extractLsb' 8 8, v.extractLsb' 0 8]

/-- The four bytes of a 32-bit number, most significant first (20_memory R41). -/
def wordBytes (v : Word) : List Byte :=
  [v.extractLsb' 24 8, v.extractLsb' 16 8, v.extractLsb' 8 8, v.extractLsb' 0 8]

/-- Byte `i` of a byte sequence. The parser reads inside the sequence only (41_decode R96). -/
def byteAt (bs : List Byte) (i : Nat) : Byte := bs.getD i 0

/-- The 16-bit number at index `i`. -/
def halfAt (bs : List Byte) (i : Nat) : Half := beHalf (byteAt bs i) (byteAt bs (i + 1))

/-- The 32-bit number at index `i`. -/
def wordAt (bs : List Byte) (i : Nat) : Word :=
  beWord (byteAt bs i) (byteAt bs (i + 1)) (byteAt bs (i + 2)) (byteAt bs (i + 3))

/-- The recomputed IHL of a header value with `n` options, in words: 5 + n (42_encode R110). -/
def headerWords (n : Nat) : Nat := 5 + n

/-- The recomputed total length of a header value with `n` options and `p` payload bytes (42_encode R110). -/
def totalBytes (n p : Nat) : Nat := headerWords n * 4 + p

/-- Why a header value with `n` options and `p` payload bytes cannot be encoded, decided from the two lengths alone and
in this order (42_encode R110, 60_exceptions R173). -/
def encodeError? (n p : Nat) : Option CodecError :=
  if headerWords n > 15 then some .tooManyOptions
  else if totalBytes n p > 65535 then some .lenOverflow
  else none

/-- A result that exists only for an encodable header value. -/
def ifEncodable {α : Type} (n p : Nat) (result : α) : Except CodecError α :=
  match encodeError? n p with
  | some e => .error e
  | none => .ok result

/-- The encoded header bytes with a given checksum field: the fixed header, then the options (42_encode R110 steps 3 and
4, 43_checksum R127). The stored ihl, totalLength and headerChecksum are not read; `p` is the payload's length. -/
def headerBytes (h : Fields) (options : List Word) (p : Nat) (checksum : Half) : List Byte :=
  [packByte h.version (BitVec.ofNat 4 (headerWords options.length)), packByte h.dscp h.ecn] ++
  halfBytes (BitVec.ofNat 16 (totalBytes options.length p)) ++
  halfBytes h.identification ++
  [packByte h.flags (h.fragmentOffset.extractLsb' 8 5), h.fragmentOffset.extractLsb' 0 8, h.ttl, h.protocol] ++
  halfBytes checksum ++ wordBytes h.src ++ wordBytes h.dst ++ options.flatMap wordBytes

/-- The invariants of a well-formed header value (10_state R14); that every field fits its width is in the types. -/
structure HeaderValue.WF (H : HeaderValue) : Prop where
  optionsFit : H.options.length ≤ 10
  ihlTrue : H.fields.ihl.toNat = 5 + H.options.length
  totalTrue : H.fields.totalLength.toNat = H.fields.ihl.toNat * 4 + H.payload.length
  lengthFits : H.fields.ihl.toNat * 4 + H.payload.length ≤ 65535

end Sys2Proof.Machine
end

