-- ==== Sys2Proof/Machine/Checksum.lean ====
section
/-! DEFINITION. The checksum engine (43_checksum): one's-complement arithmetic, ComputeChecksum, VerifyChecksum, the
completions of CSUM and VERIFY, and the meanings of their issues. -/

namespace Sys2Proof.Machine

/-- `OcAdd16(a, b)`: 16-bit addition with end-around carry (43_checksum R125). -/
def ocAdd16 (a b : Half) : Half :=
  let t : BitVec 17 := a.setWidth 17 + b.setWidth 17
  t.extractLsb' 0 16 + (t.extractLsb' 16 1).setWidth 16

/-- The running sum of the 16-bit big-endian words of a byte sequence of even length (43_checksum R126). -/
def ocSumFrom (sum : Half) : List Byte → Half
  | b0 :: b1 :: rest => ocSumFrom (ocAdd16 sum (beHalf b0 b1)) rest
  | _ => sum

/-- `OcSum(X)` (43_checksum R126). -/
def ocSum (bs : List Byte) : Half := ocSumFrom 0 bs

/-- The plain sum of the words, a natural number (43_checksum R132). -/
def plainSum : List Byte → Nat
  | b0 :: b1 :: rest => (beHalf b0 b1).toNat + plainSum rest
  | _ => 0

/-- Folding carries until the number fits 16 bits (43_checksum R132); `fuel` bounds the loop, and the number itself is
always enough since each fold makes it smaller. -/
def foldCarries (fuel t : Nat) : Nat :=
  match fuel with
  | 0 => t
  | fuel + 1 => if t > 0xFFFF then foldCarries fuel (t % 65536 + t / 65536) else t

/-- `OcSumDeferred(X)`: one fold at the end instead of one per addition (43_checksum R132). -/
def ocSumDeferred (bs : List Byte) : Nat := foldCarries (plainSum bs) (plainSum bs)

/-- The checksum of a byte sequence: the complement of its sum (43_checksum R128). -/
def checksumOf (bs : List Byte) : Half := ~~~ ocSum bs

/-- `CsumBytes(X)`: the checksum of raw header bytes with bytes 10 and 11 read as zero (43_checksum R133). -/
def csumBytes (bs : List Byte) : Half := checksumOf ((bs.set 10 0).set 11 0)

/-- `HeaderBytes0(H)` (43_checksum R127): the encoded header bytes with the checksum field forced to zero. -/
def headerBytes0 (H : HeaderValue) : Except CodecError (List Byte) :=
  ifEncodable H.options.length H.payload.length (headerBytes H.fields H.options H.payload.length 0)

/-- `ComputeChecksum(H)` (43_checksum R128). -/
def computeChecksum (H : HeaderValue) : Except CodecError Half := (headerBytes0 H).map checksumOf

/-- `VerifyChecksum(H)` (43_checksum R130): a comparison with the stored checksum, false where there is nothing to sum. -/
def verifyChecksum (H : HeaderValue) : Bool :=
  match computeChecksum H with
  | .ok r => r == H.fields.headerChecksum
  | .error _ => false

/-- `ComputeChecksum(HV(state))`: it reads PLEN and no byte of PAY (43_checksum R129, R137). -/
def State.checksum (s : State) : Except CodecError Half :=
  ifEncodable s.nopt.toNat s.plen.toNat (checksumOf (headerBytes s.hdr s.options s.plen.toNat 0))

/-- `VerifyChecksum(HV(state))` (43_checksum R131). -/
def State.verified (s : State) : Bool :=
  match s.checksum with
  | .ok r => r == s.hdr.headerChecksum
  | .error _ => false

/-- RESULT takes a value (10_state R20). -/
def State.setResult (s : State) (v : Half) : State := { s with result := v }

/-- The completion of CSUM (43_checksum R129). -/
def completeCsum (s : State) : State :=
  match s.checksum with
  | .error e => s.raise e
  | .ok r => (s.setResult r).succeed

/-- The completion of VERIFY (43_checksum R131), which never raises. -/
def completeVerify (s : State) : State := (s.setResult (if s.verified then 1 else 0)).succeed

/-- CSUM: its issue (44_access R149). -/
def execCsum (s : State) : Host.Outcome State Fault Refusal := issueCommand .csum s

/-- VERIFY: its issue (44_access R149). -/
def execVerify (s : State) : Host.Outcome State Fault Refusal := issueCommand .verify s

end Sys2Proof.Machine
end

