-- ==== Sys2Proof/Machine/Parser.lean ====
section
/-! DEFINITION. The parser (41_decode): the pure function Decode, the completion of DECODE, and the meaning of its issue. -/

namespace Sys2Proof.Machine

/-- The thirteen scalar fields of a buffer of at least 20 bytes (41_decode R90 steps 2 and 6, 30_encoding R61 to R68). -/
def parseFields (bs : List Byte) : Fields :=
  { version := (byteAt bs 0).extractLsb' 4 4
    ihl := (byteAt bs 0).extractLsb' 0 4
    dscp := (byteAt bs 1).extractLsb' 2 6
    ecn := (byteAt bs 1).extractLsb' 0 2
    totalLength := halfAt bs 2
    identification := halfAt bs 4
    flags := (byteAt bs 6).extractLsb' 5 3
    fragmentOffset := BitVec.ofNat 13 (((byteAt bs 6).extractLsb' 0 5).toNat * 256 + (byteAt bs 7).toNat)
    ttl := byteAt bs 8
    protocol := byteAt bs 9
    headerChecksum := halfAt bs 10
    src := wordAt bs 12
    dst := wordAt bs 16 }

/-- `Decode(B)` (41_decode R90): the checks in the order of R172, then the header value. -/
def decodePacket (bs : List Byte) : Except CodecError HeaderValue :=
  let f := parseFields bs
  let hl := f.ihl.toNat * 4
  if bs.length < 20 then .error (.tooShort 20 bs.length)
  else if f.totalLength.toNat ≠ bs.length then .error .lengthMismatch
  else if f.ihl.toNat < 5 then .error .malformed
  else if hl > bs.length then .error .malformed
  else .ok { fields := f
             options := (List.range (f.ihl.toNat - 5)).map fun k => wordAt bs (20 + 4 * k)
             payload := bs.drop hl }

/-- The header registers, OPT, NOPT, PLEN and PAY take a decoded header value (41_decode R91). -/
def State.loadHeader (s : State) (H : HeaderValue) : State :=
  { s with
    hdr := H.fields
    nopt := BitVec.ofNat 4 H.options.length
    opt := writeOptions s.opt H.options
    plen := BitVec.ofNat 16 H.payload.length
    pay := s.pay.writeBytes 0 H.payload }

/-- The completion of DECODE (41_decode R91). -/
def completeDecode (s : State) : State :=
  match decodePacket s.buffer with
  | .error e => s.raise e
  | .ok H => (s.loadHeader H).succeed

/-- DECODE: its issue (44_access R149). -/
def execDecode (s : State) : Host.Outcome State Fault Refusal := issueCommand .decode s

end Sys2Proof.Machine
end

