-- ==== Sys2Proof/Machine/Serializer.lean ====
section
/-! DEFINITION. The serializer (42_encode): the pure function Encode, the completion of ENCODE, and the meaning of its issue. -/

namespace Sys2Proof.Machine

/-- `Encode(H)` (42_encode R110). -/
def encodeHeader (H : HeaderValue) : Except CodecError (List Byte) :=
  ifEncodable H.options.length H.payload.length
    (headerBytes H.fields H.options H.payload.length H.fields.headerChecksum ++ H.payload)

/-- `Encode(HV(state))`; a state with more options or payload bytes than have storage is refused from its two lengths
alone (10_state R13, 42_encode R110). -/
def State.encoded (s : State) : Except CodecError (List Byte) :=
  ifEncodable s.nopt.toNat s.plen.toNat
    (headerBytes s.hdr s.options s.plen.toNat s.hdr.headerChecksum ++ s.payload)

/-- BUF[0..L-1] and BLEN take an encoded packet (42_encode R111). -/
def State.storePacket (s : State) (bs : List Byte) : State :=
  { s with buf := s.buf.writeBytes 0 bs, blen := BitVec.ofNat 16 bs.length }

/-- The completion of ENCODE (42_encode R111). -/
def completeEncode (s : State) : State :=
  match s.encoded with
  | .error e => s.raise e
  | .ok bs => (s.storePacket bs).succeed

/-- ENCODE: its issue (44_access R149). -/
def execEncode (s : State) : Host.Outcome State Fault Refusal := issueCommand .encode s

end Sys2Proof.Machine
end

