-- ==== Sys2Proof/Machine/Engine.lean ====
section
/-! DEFINITION. The codec engine: the one atomic completion step of the command in flight (20_memory R46). -/

namespace Sys2Proof.Machine

/-- The completion step of the command LOP selects (10_state R25, 20_memory R46). -/
def complete (s : State) : State :=
  match s.lop with
  | .decode => completeDecode s
  | .encode => completeEncode s
  | .csum => completeCsum s
  | .verify => completeVerify s

/-- A descriptor placed as the very next host event. While a command is in flight its completion comes one event later, so
that the descriptor is the next step and the completion comes as far after it as before. -/
def State.placeAccess (s : State) (d : Descriptor) : State :=
  { s with pending := .access d :: s.pending, delay := if s.busy then s.delay + 1 else s.delay }

end Sys2Proof.Machine
end

