-- ==== Sys2Proof/Machine/Dispatch.lean ====
section
/-! DEFINITION. One arm per instruction, each one direct call of its meaning. -/

namespace Sys2Proof.Machine

/-- The effect of one host access, answered at once (20_memory R45, 44_access R155). -/
def exec (i : Instr) (s : State) : Host.Outcome State Fault Refusal :=
  match i with
  | .decode => Sys2Proof.Machine.execDecode s
  | .encode => Sys2Proof.Machine.execEncode s
  | .csum => Sys2Proof.Machine.execCsum s
  | .verify => Sys2Proof.Machine.execVerify s
  | .rd index => Sys2Proof.Machine.execRd index s
  | .wr index data => Sys2Proof.Machine.execWr index data s
  | .ldb index => Sys2Proof.Machine.execLdb index s
  | .stb index data => Sys2Proof.Machine.execStb index data s
  | .ldp index => Sys2Proof.Machine.execLdp index s
  | .stp index data => Sys2Proof.Machine.execStp index data s
  | .reserved kind => Sys2Proof.Machine.execReserved kind s

end Sys2Proof.Machine
end

