-- ==== Sys2Proof/Machine/Step.lean ====
section
/-! DEFINITION. One step of the block: the engine's completion, or the next host event (20_memory R50). -/

namespace Sys2Proof.Machine

/-- One step in the total order of R50. With no command in flight and no host event to come the block is idle: the run is
over (70 R200) and nothing changes. -/
def step (s : State) : Host.Outcome State Fault Refusal :=
  if s.engineTurn then .next (complete s)
  else
    match s.pending with
    | [] => .next s
    | .reset :: rest => .next (s.takeEvent rest).resetEvent
    | .access d :: rest => exec (decodeDescriptor d) (s.takeEvent rest)

/-- The state in which the very next step runs the instruction of word `w`; a number that is no descriptor is not placed. -/
def State.withFetchWord (s : State) (nbits w : Nat) : State :=
  match descriptorOfWord nbits w with
  | .ok d => s.placeAccess d
  | .error _ => s

end Sys2Proof.Machine
end

