-- ==== Sys2Proof/Machine/HostProgram.lean ====
section
/-! DEFINITION. Host programs (30_encoding R80): the pseudo-operations and their expansions, and a host that runs a program,
deciding by what it reads where R80 says so. -/

namespace Sys2Proof.Machine

/-- LOADBUF b0 b1 ...: the bytes stored at 0 and up, then their number written to BLEN. -/
def loadBuf (bs : List Byte) : List Instr :=
  (bs.zipIdx.map fun (b, i) => .stb (BitVec.ofNat 16 i) (b.setWidth 32)) ++ [.wr 37#16 (BitVec.ofNat 32 bs.length)]

/-- LOADPAY p0 p1 ...: the bytes stored in PAY, then their number written to PLEN. -/
def loadPay (bs : List Byte) : List Instr :=
  (bs.zipIdx.map fun (b, i) => .stp (BitVec.ofNat 16 i) (b.setWidth 32)) ++ [.wr 14#16 (BitVec.ofNat 32 bs.length)]

/-- SETOPTS o0 o1 ...: the option registers, then their number written to NOPT. -/
def setOpts (ws : List Word) : List Instr :=
  (ws.zipIdx.map fun (w, i) => .wr (BitVec.ofNat 16 (16 + i)) w) ++ [.wr 13#16 (BitVec.ofNat 32 ws.length)]

/-- What a host does next, as R80 writes it. -/
inductive HostAction where
  /-- One access. -/
  | access (i : Instr)
  /-- WAIT: RD STATUS until bit 0 (BUSY) of the value read is clear. -/
  | wait
  /-- RD STATUS, and stop if ERR, bits 4:2 of the value read, is not 0. -/
  | stopOnError
  /-- RD RESULT -> v, then WR HCSUM, v. -/
  | resultToHcsum
  deriving DecidableEq, Repr

/-- Accesses one after the other, whatever they return. -/
def accesses (is : List Instr) : List HostAction := is.map .access

/-- SETCSUM: CSUM; WAIT; RD STATUS and stop if ERR is not 0; RD RESULT -> v; WR HCSUM, v. -/
def setCsum : List HostAction := [.access .csum, .wait, .stopOnError, .resultToHcsum]

/-- The accesses of a WAIT in which `polls` reads return BUSY 1, which LATENCY decides. -/
def waitPolls (polls : Nat) : List Instr := List.replicate (polls + 1) (.rd 33#16)

/-- A list of accesses put before the block: in order they are the host events to come. -/
def State.loadProgram (s : State) (program : List Instr) : State :=
  { s with pending := program.map fun i => .access (encodeDescriptor i) }

/-- How the host's running of a program ends. -/
inductive HostEnd where
  /-- Every access was answered A_OK, and the command the program left in flight, if any, has completed. -/
  | finished (s : State)
  /-- SETCSUM stopped: the ERR it read is not 0, and nothing after it is done. -/
  | stopped (s : State)
  /-- An access was answered other than A_OK; R200 says nothing of what a host does next. -/
  | notAccepted (s : State)
  /-- WAIT has used up its polls; with the number `hostAct` gives it that does not happen. -/
  | stillBusy (s : State)
  deriving DecidableEq, Repr

/-- The host makes one access, having read the answers to all before it: the block steps until it has answered. The engine's
completion may come first (20_memory R50). -/
def ask (i : Instr) (s : State) : Host.Outcome State Fault Refusal :=
  if (s.loadProgram [i]).engineTurn then
    match step (s.loadProgram [i]) with
    | .next t => step t
    | .fault r => .fault r
    | .refused r => .refused r
  else step (s.loadProgram [i])

/-- One access, and what the host does after it when it was answered A_OK. -/
def askThen (i : Instr) (k : State → Host.Outcome HostEnd Fault Refusal) (s : State) : Host.Outcome HostEnd Fault Refusal :=
  match ask i s with
  | .next t => if t.accepted then k t else .next (.notAccepted t)
  | .fault r => .fault r
  | .refused r => .refused r

/-- At most `polls` reads of STATUS, ending with the first that shows BUSY 0. -/
def pollThen (polls : Nat) (k : State → Host.Outcome HostEnd Fault Refusal) (s : State) :
    Host.Outcome HostEnd Fault Refusal :=
  match polls with
  | 0 => .next (.stillBusy s)
  | polls + 1 => askThen (.rd 33#16) (fun t => if t.readData.getLsbD 0 then pollThen polls k t else k t) s

/-- One action of the host. A WAIT ends after at most `delay + 1` reads, since each brings the completion nearer (70 R199). -/
def hostAct (a : HostAction) (k : State → Host.Outcome HostEnd Fault Refusal) (s : State) :
    Host.Outcome HostEnd Fault Refusal :=
  match a with
  | .access i => askThen i k s
  | .wait => pollThen (s.delay + 1) k s
  | .stopOnError =>
    askThen (.rd 33#16) (fun t => if t.readData.extractLsb' 2 3 = 0#3 then k t else .next (.stopped t)) s
  | .resultToHcsum => askThen (.rd 34#16) (fun t => askThen (.wr 10#16 t.readData) k t) s

/-- A host runs a program before the block, which it alone accesses; after the last access a command still in flight
completes (70 R199, R200). -/
def runHost (program : List HostAction) (s : State) : Host.Outcome HostEnd Fault Refusal :=
  match program with
  | [] =>
    match step (s.loadProgram []) with
    | .next t => .next (.finished t)
    | .fault r => .fault r
    | .refused r => .refused r
  | a :: rest => hostAct a (fun t => runHost rest t) s

end Sys2Proof.Machine
end

