-- ==== Sys2Proof/Machine/Instances.lean ====
section
/-! DEFINITION. Several blocks side by side (60_exceptions R181, parameter N_INSTANCES): each is a state of its own, with a copy
number of its own, so that no two of them draw from the same free values. -/

namespace Sys2Proof.Machine

/-- Copy `k` in the reset state. -/
def State.powerUp (k : Nat) : State := { State.reset with copy := k }

/-- `n` copies, each in the reset state (60_exceptions R181). -/
def powerUp (n : Nat) : List State := (List.range n).map State.powerUp

/-- One step of block `k` of a system of blocks. -/
def stepBlock (blocks : List State) (k : Nat) : List State :=
  match blocks[k]? with
  | none => blocks
  | some s =>
    match step s with
    | .next t => blocks.set k t
    | .fault _ => blocks
    | .refused _ => blocks

end Sys2Proof.Machine
end

