-- ==== Sys2Proof/Safety.lean ====
section
/-! DEFINITION. What claims speak of: the invariant of a block, a number of steps, a finished run of a host program, and the
response procedure of 44_access R155 written over plain numbers, apart from the machine's own register map. -/

namespace Sys2Proof.Machine

/-- What holds of every block in every state a run reaches. -/
structure State.Inv (s : State) : Prop where
  /-- BUF's list of cells is in canonical form. -/
  bufWf : s.buf.wf = true
  /-- BUF has 65535 bytes (20_memory R40). -/
  bufWithin : s.buf.within 65535 = true
  /-- PAY's list of cells is in canonical form. -/
  payWf : s.pay.wf = true
  /-- PAY has 65515 bytes (20_memory R40). -/
  payWithin : s.pay.within 65515 = true
  /-- BUSY and DONE are never both 1 (10_state R18). -/
  notBusyAndDone : ¬ (s.busy = true ∧ s.done = true)
  /-- The codes 6 and 7 are never written (60_exceptions R165). -/
  errCode : s.err.toNat ≤ 5
  /-- EREQ and EACT after E_TOO_SHORT (60_exceptions R165, R166). -/
  tooShortRecord : s.err = 1#3 → s.ereq = 20#16 ∧ s.eact.toNat < 20
  /-- EREQ and EACT after every other outcome (60_exceptions R165). -/
  otherRecord : s.err ≠ 1#3 → s.ereq = 0#16 ∧ s.eact = 0#16

/-- The state after `n` steps; none when a step stops. -/
def runSteps (n : Nat) (s : State) : Option State :=
  match n with
  | 0 => some s
  | n + 1 =>
    match step s with
    | .next t => runSteps n t
    | .fault _ => none
    | .refused _ => none

/-- The last access has been answered and no command is in flight (70_reset_and_hazards R200). -/
def State.runOver (s : State) : Bool := s.pending.isEmpty && !s.busy

/-- The final state of a finished run (70_reset_and_hazards R200): every access answered A_OK and, within `fuel` steps, no
access left and no command in flight; none for a run that is not finished. DESIGN CHOICE, log entry 11: a run with a reset
event to come is none, since R200 speaks of a list of accesses and 93 U25 puts a program reset in its middle outside the
spec; and a program may begin in any state, also with an earlier command in flight, judged by the answers to its own
accesses alone: the engine's completion answers no access, so the answer it leaves standing is not looked at. -/
def finishedRun (fuel : Nat) (s : State) : Option State :=
  if s.pending.any (· == .reset) then none
  else if s.runOver then some s
  else
    match fuel with
    | 0 => none
    | fuel + 1 =>
      match step s with
      | .next t => if s.engineTurn || t.accepted then finishedRun fuel t else none
      | .fault _ => none
      | .refused _ => none

end Sys2Proof.Machine

namespace Sys2Proof.Safety

open Sys2Proof.Machine

/-- The width column of 30_encoding R78; none for a number that names no register. -/
def registerWidth (n : Nat) : Option Nat :=
  if n = 0 ∨ n = 1 ∨ n = 13 then some 4
  else if n = 2 then some 6
  else if n = 3 ∨ n = 32 then some 2
  else if n = 4 ∨ n = 5 ∨ n = 10 ∨ n = 14 ∨ n = 34 ∨ n = 35 ∨ n = 36 ∨ n = 37 then some 16
  else if n = 6 then some 3
  else if n = 7 then some 13
  else if n = 8 ∨ n = 9 then some 8
  else if n = 11 ∨ n = 12 ∨ (16 ≤ n ∧ n ≤ 25) then some 32
  else if n = 33 then some 5
  else none

/-- Check 1 of R155 on plain numbers: nothing of that kind at that index, or not accessible that way. -/
def nothingThere (kind index : Nat) : Prop :=
  kind = 6 ∨ kind = 7 ∨
  ((kind = 0 ∨ kind = 1) ∧ ¬ (index ≤ 14 ∨ (16 ≤ index ∧ index ≤ 25) ∨ (32 ≤ index ∧ index ≤ 37))) ∨
  (kind = 1 ∧ (index = 33 ∨ index = 34 ∨ index = 35 ∨ index = 36)) ∨
  (kind = 0 ∧ index = 32) ∨
  ((kind = 2 ∨ kind = 3) ∧ index > 65534) ∨
  ((kind = 4 ∨ kind = 5) ∧ index > 65514)

/-- Check 3 of R155 on plain numbers: the value does not fit. -/
def doesNotFit (kind index data : Nat) : Prop :=
  (kind = 1 ∧ ∃ w, registerWidth index = some w ∧ data ≥ 2 ^ w) ∨ ((kind = 3 ∨ kind = 5) ∧ data ≥ 256)

/-- The response R155 gives an access, as a relation on plain numbers. -/
def AnsweredWith (kind index data : Nat) (busy : Bool) (r : Response) : Prop :=
  (nothingThere kind index ∧ r = .badReg) ∨
  (¬ nothingThere kind index ∧ (busy = true ∧ ¬ (kind = 0 ∧ index = 33)) ∧ r = .busy) ∨
  (¬ nothingThere kind index ∧ ¬ (busy = true ∧ ¬ (kind = 0 ∧ index = 33)) ∧ doesNotFit kind index data ∧ r = .range) ∨
  (¬ nothingThere kind index ∧ ¬ (busy = true ∧ ¬ (kind = 0 ∧ index = 33)) ∧ ¬ doesNotFit kind index data ∧ r = .ok)

end Sys2Proof.Safety
end

