-- ==== Sys2Proof/Certificates/Slice0/Obligations.lean ====
section
/-! DEFINITION. The statements about IP4HC, each from numbered rules of spec/. Tier, basis and cites are in OBLIGATIONS.json.
In all of them `answer` is where the model keeps what the bus answers (log entry 5). -/

open Sys2Proof Sys2Proof.Machine Sys2Proof.Safety

/-! ## Encoding of the block's own operations (30_encoding part B) -/

/-- One word of every row of the opcode table, written out from R75 and R76, decodes to the row's instruction. -/
def Obligations.TableWordsDecode : Prop :=
  decodeDescriptor 0x1002000000000#51 = .decode ∧
  decodeDescriptor 0x1002000000001#51 = .encode ∧
  decodeDescriptor 0x1002000000002#51 = .csum ∧
  decodeDescriptor 0x1002000000003#51 = .verify ∧
  decodeDescriptor 0x0002100000000#51 = .rd 33#16 ∧
  decodeDescriptor 0x100000000000F#51 = .wr 0#16 15#32 ∧
  decodeDescriptor 0x1002000000004#51 = .wr 32#16 4#32 ∧
  decodeDescriptor 0x2FFFF00000000#51 = .ldb 65535#16 ∧
  decodeDescriptor 0x3000000000100#51 = .stb 0#16 256#32 ∧
  decodeDescriptor 0x4FFEA00000000#51 = .ldp 65514#16 ∧
  decodeDescriptor 0x5FFEA000000CD#51 = .stp 65514#16 205#32 ∧
  decodeDescriptor 0x7002100000000#51 = .reserved 7#3

/-- Decoding the encoding of a well-formed instruction gives it back, every operand at every value (R75, R76, R77). Which
terms are well-formed is the model's choice (log entry 9). -/
def Obligations.DecodeOfEncodeIsIdentity : Prop :=
  ∀ i : Instr, i.wellFormed = true → decodeDescriptor (encodeDescriptor i) = i

/-- Every descriptor decodes to a well-formed instruction that keeps every field the table does not call ignored: the kind
always, the index of kinds 0 to 5, the data of kinds 1, 3 and 5 (R75, R77). Which terms are well-formed, and that the
encoder writes ignored fields as zeros, is the model's choice (log entry 9). -/
def Obligations.DecodedDescriptorKeepsItsFields : Prop :=
  ∀ d : Descriptor,
    (decodeDescriptor d).wellFormed = true ∧
    kindField (encodeDescriptor (decodeDescriptor d)) = kindField d ∧
    ((kindField d).toNat ≤ 5 → indexField (encodeDescriptor (decodeDescriptor d)) = indexField d) ∧
    ((kindField d).toNat = 1 ∨ (kindField d).toNat = 3 ∨ (kindField d).toNat = 5 →
      dataField (encodeDescriptor (decodeDescriptor d)) = dataField d)

/-! ## Steps -/

/-- What one step is (R46, R50): the completion when a command is in flight and either its free number of host events has
passed or the host has none; else the next host event, an access being `exec` of the instruction its descriptor stands
for; else nothing. A word placed by `withFetchWord` is the very next instruction. The queue of host events, the delay and
the idle step are the model's own (log entries 1 and 4). -/
def Obligations.StepRunsTheDecodedAccess : Prop :=
  (∀ s : State, s.busy = true → s.delay = 0 ∨ s.pending = [] → step s = .next (complete s)) ∧
  (∀ (s : State) (d : Descriptor) (rest : List HostEvent),
    ¬ (s.busy = true ∧ s.delay = 0) → s.pending = .access d :: rest →
      step s = exec (decodeDescriptor d) { s with pending := rest, delay := if s.busy then s.delay - 1 else s.delay }) ∧
  (∀ s : State, s.busy = false → s.pending = [] → step s = .next s) ∧
  (∀ (s : State) (nbits w : Nat) (i : Instr),
    decodeTableWord nbits w = some i → step (s.withFetchWord nbits w) = exec i s)

/-- No state stops the block: every step answers a next state (R77, R96, R199). That the model has no fault (its type of
faults is empty) and refuses nothing is its reading of those rules, DEDUCED, log entry 8; that an idle block's step answers
the same state is the model's choice, log entry 4. -/
def Obligations.EveryStepAnswersNext : Prop :=
  ∀ s : State, ∃ t : State, step s = .next t

/-- The response procedure R155, on all 2^51 descriptors and every state: existence, then busy, then fit; an access not
answered A_OK changes nothing of the block and returns no data. -/
def Obligations.EveryDescriptorIsAnsweredAsSpecified : Prop :=
  ∀ (d : Descriptor) (s : State), ∃ (t : State) (r : Response),
    exec (decodeDescriptor d) s = .next t ∧
    AnsweredWith (kindField d).toNat (indexField d).toNat (dataField d).toNat s.busy r ∧
    t.answer.map Answer.response = some r ∧
    (r ≠ .ok → t = { s with answer := some ⟨r, none⟩ })

/-- While a command is in flight RD STATUS is performed and every other access is answered A_BUSY, or A_BADREG where
nothing is there, and does nothing (R195, R155). -/
def Obligations.BusyBlockAdmitsOnlyRdStatus : Prop :=
  ∀ (i : Instr) (s : State), s.busy = true →
    (i = .rd 33#16 → exec i s = .next { s with answer := some ⟨.ok, some s.statusWord⟩ }) ∧
    (i ≠ .rd 33#16 → ∃ r : Response, (r = .busy ∨ r = .badReg) ∧ exec i s = .next { s with answer := some ⟨r, none⟩ })

/-! ## Host accesses (44_access) -/

/-- RD of every readable register of R78 returns the stored value zero-extended and changes nothing (R145). -/
def Obligations.RdReturnsTheStoredRegister : Prop :=
  ∀ s : State, s.busy = false →
    ∀ p ∈ [(0, s.hdr.version.toNat), (1, s.hdr.ihl.toNat), (2, s.hdr.dscp.toNat), (3, s.hdr.ecn.toNat),
        (4, s.hdr.totalLength.toNat), (5, s.hdr.identification.toNat), (6, s.hdr.flags.toNat),
        (7, s.hdr.fragmentOffset.toNat), (8, s.hdr.ttl.toNat), (9, s.hdr.protocol.toNat),
        (10, s.hdr.headerChecksum.toNat), (11, s.hdr.src.toNat), (12, s.hdr.dst.toNat), (13, s.nopt.toNat),
        (14, s.plen.toNat), (16, s.opt[0].toNat), (17, s.opt[1].toNat), (18, s.opt[2].toNat), (19, s.opt[3].toNat),
        (20, s.opt[4].toNat), (21, s.opt[5].toNat), (22, s.opt[6].toNat), (23, s.opt[7].toNat), (24, s.opt[8].toNat),
        (25, s.opt[9].toNat), (34, s.result.toNat), (35, s.ereq.toNat), (36, s.eact.toNat), (37, s.blen.toNat)],
      ∃ v : Word, exec (.rd (BitVec.ofNat 16 p.1)) s = .next { s with answer := some ⟨.ok, some v⟩ } ∧ v.toNat = p.2

/-- RD STATUS is answered A_OK at all times and shows BUSY in bit 0, DONE in bit 1, ERR in bits 4:2, the rest zero (R18,
R145). -/
def Obligations.RdStatusAtAnyTime : Prop :=
  ∀ s : State, ∃ v : Word, exec (.rd 33#16) s = .next { s with answer := some ⟨.ok, some v⟩ } ∧
    v.toNat = s.busy.toNat + 2 * s.done.toNat + 4 * s.err.toNat

/-- WR of a value that fits gives the register the whole value and changes nothing else, for every writable register of
R78 but CMD (R146). -/
def Obligations.WrStoresAFittingValue : Prop :=
  ∀ (s : State) (v : Word), s.busy = false →
    (v.toNat < 2 ^ 4 → exec (.wr 0#16 v) s =
      .next { s with hdr := { s.hdr with version := BitVec.ofNat 4 v.toNat }, answer := some ⟨.ok, none⟩ }) ∧
    (v.toNat < 2 ^ 4 → exec (.wr 1#16 v) s =
      .next { s with hdr := { s.hdr with ihl := BitVec.ofNat 4 v.toNat }, answer := some ⟨.ok, none⟩ }) ∧
    (v.toNat < 2 ^ 6 → exec (.wr 2#16 v) s =
      .next { s with hdr := { s.hdr with dscp := BitVec.ofNat 6 v.toNat }, answer := some ⟨.ok, none⟩ }) ∧
    (v.toNat < 2 ^ 2 → exec (.wr 3#16 v) s =
      .next { s with hdr := { s.hdr with ecn := BitVec.ofNat 2 v.toNat }, answer := some ⟨.ok, none⟩ }) ∧
    (v.toNat < 2 ^ 16 → exec (.wr 4#16 v) s =
      .next { s with hdr := { s.hdr with totalLength := BitVec.ofNat 16 v.toNat }, answer := some ⟨.ok, none⟩ }) ∧
    (v.toNat < 2 ^ 16 → exec (.wr 5#16 v) s =
      .next { s with hdr := { s.hdr with identification := BitVec.ofNat 16 v.toNat }, answer := some ⟨.ok, none⟩ }) ∧
    (v.toNat < 2 ^ 3 → exec (.wr 6#16 v) s =
      .next { s with hdr := { s.hdr with flags := BitVec.ofNat 3 v.toNat }, answer := some ⟨.ok, none⟩ }) ∧
    (v.toNat < 2 ^ 13 → exec (.wr 7#16 v) s =
      .next { s with hdr := { s.hdr with fragmentOffset := BitVec.ofNat 13 v.toNat }, answer := some ⟨.ok, none⟩ }) ∧
    (v.toNat < 2 ^ 8 → exec (.wr 8#16 v) s =
      .next { s with hdr := { s.hdr with ttl := BitVec.ofNat 8 v.toNat }, answer := some ⟨.ok, none⟩ }) ∧
    (v.toNat < 2 ^ 8 → exec (.wr 9#16 v) s =
      .next { s with hdr := { s.hdr with protocol := BitVec.ofNat 8 v.toNat }, answer := some ⟨.ok, none⟩ }) ∧
    (v.toNat < 2 ^ 16 → exec (.wr 10#16 v) s =
      .next { s with hdr := { s.hdr with headerChecksum := BitVec.ofNat 16 v.toNat }, answer := some ⟨.ok, none⟩ }) ∧
    exec (.wr 11#16 v) s = .next { s with hdr := { s.hdr with src := v }, answer := some ⟨.ok, none⟩ } ∧
    exec (.wr 12#16 v) s = .next { s with hdr := { s.hdr with dst := v }, answer := some ⟨.ok, none⟩ } ∧
    (v.toNat < 2 ^ 4 → exec (.wr 13#16 v) s =
      .next { s with nopt := BitVec.ofNat 4 v.toNat, answer := some ⟨.ok, none⟩ }) ∧
    (v.toNat < 2 ^ 16 → exec (.wr 14#16 v) s =
      .next { s with plen := BitVec.ofNat 16 v.toNat, answer := some ⟨.ok, none⟩ }) ∧
    (∀ k : Fin 10, exec (.wr (BitVec.ofNat 16 (16 + k.val)) v) s =
      .next { s with opt := s.opt.set k.val v k.isLt, answer := some ⟨.ok, none⟩ }) ∧
    (v.toNat < 2 ^ 16 → exec (.wr 37#16 v) s =
      .next { s with blen := BitVec.ofNat 16 v.toNat, answer := some ⟨.ok, none⟩ })

/-- A write of a value that does not fit is refused with A_RANGE and changes nothing, STATUS.ERR included, for every
writable register of R78 narrower than the data port, CMD among them; nothing is truncated (R154). -/
def Obligations.WrRefusesAWideValue : Prop :=
  ∀ (s : State) (v : Word), s.busy = false →
    ∀ p ∈ [(0, 4), (1, 4), (2, 6), (3, 2), (4, 16), (5, 16), (6, 3), (7, 13), (8, 8), (9, 8), (10, 16), (13, 4), (14, 16),
        (32, 2), (37, 16)],
      2 ^ p.2 ≤ v.toNat → exec (.wr (BitVec.ofNat 16 p.1) v) s = .next { s with answer := some ⟨.range, none⟩ }

/-- LDB returns BUF[index] and changes nothing; STB of a byte writes that cell and no other and changes nothing else; a
value above 255 is refused; LDB after STB returns the byte (R147). -/
def Obligations.BufferBytesAreReadAndWritten : Prop :=
  ∀ (s : State) (i : BitVec 16), s.busy = false → i.toNat ≤ 65534 →
    exec (.ldb i) s = .next { s with answer := some ⟨.ok, some (BitVec.ofNat 32 (s.bufByte i.toNat).toNat)⟩ } ∧
    ∀ v : Word,
      (256 ≤ v.toNat → exec (.stb i v) s = .next { s with answer := some ⟨.range, none⟩ }) ∧
      (v.toNat < 256 → ∃ t : State, exec (.stb i v) s = .next t ∧
        t = { s with buf := t.buf, answer := some ⟨.ok, none⟩ } ∧
        (t.bufByte i.toNat).toNat = v.toNat ∧
        (∀ j : Nat, j ≠ i.toNat → t.bufByte j = s.bufByte j) ∧
        exec (.ldb i) t = .next { t with answer := some ⟨.ok, some v⟩ })

/-- LDP and STP, the same for PAY (R150). -/
def Obligations.PayloadBytesAreReadAndWritten : Prop :=
  ∀ (s : State) (i : BitVec 16), s.busy = false → i.toNat ≤ 65514 →
    exec (.ldp i) s = .next { s with answer := some ⟨.ok, some (BitVec.ofNat 32 (s.payByte i.toNat).toNat)⟩ } ∧
    ∀ v : Word,
      (256 ≤ v.toNat → exec (.stp i v) s = .next { s with answer := some ⟨.range, none⟩ }) ∧
      (v.toNat < 256 → ∃ t : State, exec (.stp i v) s = .next t ∧
        t = { s with pay := t.pay, answer := some ⟨.ok, none⟩ } ∧
        (t.payByte i.toNat).toNat = v.toNat ∧
        (∀ j : Nat, j ≠ i.toNat → t.payByte j = s.payByte j) ∧
        exec (.ldp i) t = .next { t with answer := some ⟨.ok, some v⟩ })

/-- The issue of each command (R149): LOP, BUSY and DONE change, every other part of the block keeps its value. Nothing is
said of the model's own delay and count of issues (log entry 1). -/
def Obligations.CommandIssueSetsBusy : Prop :=
  ∀ s : State, s.busy = false →
    ∀ p ∈ [(Instr.decode, Command.decode), (Instr.encode, Command.encode), (Instr.csum, Command.csum),
        (Instr.verify, Command.verify)],
      ∃ t : State, exec p.1 s = .next t ∧
        t = { s with lop := p.2, busy := true, done := false, answer := some ⟨.ok, none⟩, delay := t.delay,
                     issues := t.issues }

/-- A descriptor of kind 6 or 7 is answered A_BADREG, whether or not a command is in flight, and changes nothing (R77). -/
def Obligations.ReservedKindsChangeNothing : Prop :=
  ∀ (k : BitVec 3) (s : State), exec (.reserved k) s = .next { s with answer := some ⟨.badReg, none⟩ }

/-- No host access writes STATUS.ERR, RESULT, EREQ or EACT, none but a write to CMD changes BUSY, DONE or LOP, and no read
changes anything but the answer of the bus (R47, R171, R149). That the queue of host events, the count of resets and the
copy's number are unchanged is said of the model's own fields, by its choice (log entries 4, 2 and 7), and by no rule. -/
def Obligations.AccessesLeaveResultsAlone : Prop :=
  ∀ (i : Instr) (s t : State), exec i s = .next t →
    (t.err = s.err ∧ t.result = s.result ∧ t.ereq = s.ereq ∧ t.eact = s.eact ∧ t.pending = s.pending ∧
      t.epoch = s.epoch ∧ t.copy = s.copy) ∧
    (t.busy = s.busy ∧ t.done = s.done ∧ t.lop = s.lop ∨
      i = .decode ∨ i = .encode ∨ i = .csum ∨ i = .verify ∨ ∃ v : Word, i = .wr 32#16 v) ∧
    (∀ index : BitVec 16, i = .rd index ∨ i = .ldb index ∨ i = .ldp index → t = { s with answer := t.answer })

/-! ## The parser (41_decode) -/

/-- The errors of Decode and their order (R172), over the bytes as numbers. -/
def Obligations.DecodeErrorsComeInOrder : Prop :=
  ∀ bs : List Byte,
    (bs.length < 20 → decodePacket bs = .error (.tooShort 20 bs.length)) ∧
    (20 ≤ bs.length → (bs.getD 2 0).toNat * 256 + (bs.getD 3 0).toNat ≠ bs.length →
      decodePacket bs = .error .lengthMismatch) ∧
    (20 ≤ bs.length → (bs.getD 2 0).toNat * 256 + (bs.getD 3 0).toNat = bs.length →
      ((bs.getD 0 0).toNat % 16 < 5 ∨ bs.length < (bs.getD 0 0).toNat % 16 * 4) →
      decodePacket bs = .error .malformed) ∧
    (20 ≤ bs.length → (bs.getD 2 0).toNat * 256 + (bs.getD 3 0).toNat = bs.length →
      5 ≤ (bs.getD 0 0).toNat % 16 → (bs.getD 0 0).toNat % 16 * 4 ≤ bs.length →
      ∃ H : HeaderValue, decodePacket bs = .ok H)

/-- The fields, options and payload of a decoded header value are the wire fields of R60 to R70, as numbers. -/
def Obligations.DecodedFieldsAreTheWireFields : Prop :=
  ∀ (bs : List Byte) (H : HeaderValue), decodePacket bs = .ok H →
    let b := fun i => (bs.getD i 0).toNat
    let w := fun i => b i * 0x1000000 + b (i + 1) * 0x10000 + b (i + 2) * 0x100 + b (i + 3)
    H.fields.version.toNat = b 0 / 16 ∧ H.fields.ihl.toNat = b 0 % 16 ∧
    H.fields.dscp.toNat = b 1 / 4 ∧ H.fields.ecn.toNat = b 1 % 4 ∧
    H.fields.totalLength.toNat = b 2 * 256 + b 3 ∧
    H.fields.identification.toNat = b 4 * 256 + b 5 ∧
    H.fields.flags.toNat = b 6 / 32 ∧ H.fields.fragmentOffset.toNat = b 6 % 32 * 256 + b 7 ∧
    H.fields.ttl.toNat = b 8 ∧ H.fields.protocol.toNat = b 9 ∧
    H.fields.headerChecksum.toNat = b 10 * 256 + b 11 ∧
    H.fields.src.toNat = w 12 ∧ H.fields.dst.toNat = w 16 ∧
    H.options.length = b 0 % 16 - 5 ∧
    (∀ (k : Nat) (hk : k < H.options.length), H.options[k].toNat = w (20 + 4 * k)) ∧
    H.payload = bs.drop (b 0 % 16 * 4)

/-- Every decoded header value is well-formed and its total length is the buffer's, and so are the registers after a DECODE
that succeeded (R92). -/
def Obligations.DecodedHeaderIsWellFormed : Prop :=
  (∀ (bs : List Byte) (H : HeaderValue), decodePacket bs = .ok H → H.WF ∧ H.fields.totalLength.toNat = bs.length) ∧
  (∀ s : State, s.lop = .decode → (complete s).err = 0#3 →
    (complete s).hdr.ihl.toNat = 5 + (complete s).nopt.toNat ∧
    (complete s).hdr.totalLength.toNat = 4 * (complete s).hdr.ihl.toNat + (complete s).plen.toNat ∧
    (complete s).hdr.totalLength = (complete s).blen)

/-- DECODE, issue and completion (R91): when the buffer decodes, the header registers, NOPT, PLEN, OPT[0..NOPT-1] and
PAY[0..PLEN-1] take the header value, the tails keep theirs, STATUS, EREQ and EACT report success, and nothing else of the
block changes. Nothing is said of the model's own delay and count of issues (log entry 1); LOP keeping
the command is the model's choice (log entry 3). -/
def Obligations.DecodeLoadsTheHeaderValue : Prop :=
  ∀ (s : State) (H : HeaderValue), s.busy = false → decodePacket s.buffer = .ok H →
    ∃ t u : State, exec .decode s = .next t ∧ t.busy = true ∧ t.lop = .decode ∧ complete t = u ∧
      u = { s with hdr := H.fields, nopt := u.nopt, opt := u.opt, plen := u.plen, pay := u.pay, lop := .decode,
                   busy := false, done := true, err := 0, ereq := 0, eact := 0,
                   answer := some ⟨.ok, none⟩, delay := u.delay, issues := u.issues } ∧
      u.nopt.toNat = H.options.length ∧ u.plen.toNat = H.payload.length ∧
      (∀ (k : Nat) (hk : k < 10), u.opt[k] = if h : k < H.options.length then H.options[k] else s.opt[k]) ∧
      (∀ i : Nat, u.payByte i = if h : i < H.payload.length then H.payload[i] else s.payByte i)

/-- The three errors of DECODE, their causes over BLEN and BUF, and all that they write (R166, R167, R168). -/
def Obligations.DecodeReportsItsErrors : Prop :=
  ∀ s : State, s.lop = .decode →
    (s.blen.toNat < 20 →
      complete s = { s with err := 1, ereq := 20, eact := s.blen, busy := false, done := true,
                            delay := (complete s).delay }) ∧
    (20 ≤ s.blen.toNat → (s.bufByte 2).toNat * 256 + (s.bufByte 3).toNat ≠ s.blen.toNat →
      complete s = { s with err := 2, ereq := 0, eact := 0, busy := false, done := true,
                            delay := (complete s).delay }) ∧
    (20 ≤ s.blen.toNat → (s.bufByte 2).toNat * 256 + (s.bufByte 3).toNat = s.blen.toNat →
      ((s.bufByte 0).toNat % 16 < 5 ∨ s.blen.toNat < (s.bufByte 0).toNat % 16 * 4) →
      complete s = { s with err := 3, ereq := 0, eact := 0, busy := false, done := true,
                            delay := (complete s).delay }) ∧
    (s.blen.toNat < (s.bufByte 0).toNat % 16 * 4 → s.blen.toNat ≤ 59)

/-! ## The serializer (42_encode) -/

/-- Encode (R110): its two errors in their order, and every byte of what it returns, as numbers. -/
def Obligations.EncodedBytesFollowTheWireFormat : Prop :=
  ∀ H : HeaderValue,
    let n := H.options.length
    let p := H.payload.length
    let tl := 4 * (5 + n) + p
    (10 < n → encodeHeader H = .error .tooManyOptions) ∧
    (n ≤ 10 → 65535 < tl → encodeHeader H = .error .lenOverflow) ∧
    (n ≤ 10 → tl ≤ 65535 → ∃ bs : List Byte, encodeHeader H = .ok bs ∧ bs.length = tl ∧
      let b := fun i => (bs.getD i 0).toNat
      let w := fun i => b i * 0x1000000 + b (i + 1) * 0x10000 + b (i + 2) * 0x100 + b (i + 3)
      b 0 = H.fields.version.toNat * 16 + (5 + n) ∧
      b 1 = H.fields.dscp.toNat * 4 + H.fields.ecn.toNat ∧
      b 2 * 256 + b 3 = tl ∧
      b 4 * 256 + b 5 = H.fields.identification.toNat ∧
      b 6 = H.fields.flags.toNat * 32 + H.fields.fragmentOffset.toNat / 256 ∧
      b 7 = H.fields.fragmentOffset.toNat % 256 ∧
      b 8 = H.fields.ttl.toNat ∧ b 9 = H.fields.protocol.toNat ∧
      b 10 * 256 + b 11 = H.fields.headerChecksum.toNat ∧
      w 12 = H.fields.src.toNat ∧ w 16 = H.fields.dst.toNat ∧
      (∀ (k : Nat) (hk : k < n), w (20 + 4 * k) = H.options[k].toNat) ∧
      bs.drop (4 * (5 + n)) = H.payload)

/-- Decoding what Encode returns (R112): a well-formed header value comes back whole; one whose stored ihl and totalLength
are stale comes back with those two recomputed. -/
def Obligations.DecodeOfEncodedHeader : Prop :=
  (∀ H : HeaderValue, H.WF → ∃ bs : List Byte, encodeHeader H = .ok bs ∧ decodePacket bs = .ok H) ∧
  (∀ H : HeaderValue, H.options.length ≤ 10 → 4 * (5 + H.options.length) + H.payload.length ≤ 65535 →
    ∃ bs : List Byte, encodeHeader H = .ok bs ∧
      decodePacket bs = .ok { H with fields := { H.fields with
        ihl := BitVec.ofNat 4 (5 + H.options.length),
        totalLength := BitVec.ofNat 16 (4 * (5 + H.options.length) + H.payload.length) } })

/-- Encoding what Decode returns gives the bytes back (R113). -/
def Obligations.EncodeOfDecodedPacket : Prop :=
  ∀ (bs : List Byte) (H : HeaderValue), decodePacket bs = .ok H → encodeHeader H = .ok bs

/-- Encode does not read the stored ihl and totalLength, and the all-zero header value of the reset state encodes to
05 00 00 14 and sixteen zero bytes (R114). -/
def Obligations.EncodeIgnoresStoredLengths : Prop :=
  (∀ (H : HeaderValue) (i : BitVec 4) (l : Half),
    encodeHeader { H with fields := { H.fields with ihl := i, totalLength := l } } = encodeHeader H) ∧
  encodeHeader State.reset.headerValue = .ok ([0x05, 0x00, 0x00, 0x14] ++ List.replicate 16 0)

/-- ENCODE, issue and completion (R111): an encodable header value goes to BUF[0..BLEN-1] and BLEN, the cells from BLEN on
keep theirs, STATUS, EREQ and EACT report success, and nothing else of the block changes.
Nothing is said of the model's own delay and count of issues (log entry 1); LOP keeping the command
is the model's choice (log entry 3). -/
def Obligations.EncodeStoresThePacket : Prop :=
  ∀ s : State, s.busy = false → s.nopt.toNat ≤ 10 → 4 * (5 + s.nopt.toNat) + s.plen.toNat ≤ 65535 →
    ∃ (bs : List Byte) (t u : State), encodeHeader s.headerValue = .ok bs ∧
      exec .encode s = .next t ∧ t.busy = true ∧ t.lop = .encode ∧ complete t = u ∧
      u = { s with buf := u.buf, blen := u.blen, lop := .encode, busy := false, done := true, err := 0, ereq := 0,
                   eact := 0, answer := some ⟨.ok, none⟩, delay := u.delay, issues := u.issues } ∧
      u.blen.toNat = bs.length ∧
      (∀ i : Nat, u.bufByte i = if h : i < bs.length then bs[i] else s.bufByte i)

/-- ENCODE and then DECODE on the machine restore every header register, with IHL and TLEN recomputed, and every option
register and payload byte (R56, R112, R115). -/
def Obligations.EncodeThenDecodeRestoresTheRegisters : Prop :=
  ∀ s : State, s.busy = false → s.nopt.toNat ≤ 10 → 4 * (5 + s.nopt.toNat) + s.plen.toNat ≤ 65535 →
    ∃ t v : State, exec .encode s = .next t ∧ exec .decode (complete t) = .next v ∧
      (complete v).hdr = { s.hdr with ihl := BitVec.ofNat 4 (5 + s.nopt.toNat),
                                      totalLength := BitVec.ofNat 16 (4 * (5 + s.nopt.toNat) + s.plen.toNat) } ∧
      (complete v).nopt = s.nopt ∧ (complete v).plen = s.plen ∧ (complete v).opt = s.opt ∧
      (∀ i : Nat, (complete v).payByte i = s.payByte i) ∧
      (complete v).err = 0 ∧ (complete v).busy = false ∧ (complete v).done = true

/-! ## The checksum engine (43_checksum) -/

/-- End-around carry addition (R125): its value, its congruence, when it is 0, and the rule's examples. -/
def Obligations.OcAdd16IsEndAroundCarry : Prop :=
  (∀ a b : Half,
    (ocAdd16 a b).toNat = (a.toNat + b.toNat) % 65536 + (a.toNat + b.toNat) / 65536 ∧
    (ocAdd16 a b).toNat % 65535 = (a.toNat + b.toNat) % 65535 ∧
    (ocAdd16 a b = 0 ↔ a = 0 ∧ b = 0)) ∧
  ocAdd16 0xFFFF 0x0001 = 0x0001 ∧ ocAdd16 0xFFFF 0xFFFF = 0xFFFF ∧ ocAdd16 0x8000 0x8000 = 0x0001 ∧
  ocAdd16 0x4500 0x0014 = 0x4514 ∧ ocAdd16 0 0 = 0 ∧ ocAdd16 0xFFFF 0 = 0xFFFF

/-- The one's-complement sum of a byte sequence of even length (R126): word by word from the left, 0 only when every byte
is 0, and otherwise the number of 1 to 0xFFFF congruent to the plain sum of the words. -/
def Obligations.OcSumIsTheSumOfTheWords : Prop :=
  (∀ b0 b1 : Byte, ∀ bs : List Byte, bs.length % 2 = 0 →
    ocSum (bs ++ [b0, b1]) = ocAdd16 (ocSum bs) (BitVec.ofNat 16 (b0.toNat * 256 + b1.toNat))) ∧
  ocSum [] = 0 ∧
  (∀ bs : List Byte, bs.length % 2 = 0 →
    (ocSum bs = 0 ↔ ∀ b ∈ bs, b = 0) ∧
    (ocSum bs).toNat % 65535 =
      ((List.range (bs.length / 2)).map fun j => (bs.getD (2 * j) 0).toNat * 256 + (bs.getD (2 * j + 1) 0).toNat).sum % 65535)

/-- Order and folding do not matter (R132): OcAdd16 is commutative and associative, exchanging words keeps the sum, folding
once at the end gives the same, and for a header two folds are enough. -/
def Obligations.OrderAndFoldingDoNotMatter : Prop :=
  (∀ a b : Half, ocAdd16 a b = ocAdd16 b a) ∧
  (∀ a b c : Half, ocAdd16 (ocAdd16 a b) c = ocAdd16 a (ocAdd16 b c)) ∧
  (∀ ws vs : List Half, ws.Perm vs → ocSum (ws.flatMap halfBytes) = ocSum (vs.flatMap halfBytes)) ∧
  (∀ bs : List Byte, bs.length % 2 = 0 → (ocSum bs).toNat = ocSumDeferred bs) ∧
  (∀ (H : HeaderValue) (bs : List Byte), headerBytes0 H = .ok bs →
    plainSum bs ≤ 1900515 ∧ ocSumDeferred bs = foldCarries 2 (plainSum bs))

/-- ComputeChecksum is the complement of the sum of HeaderBytes0, is never 0xFFFF, is 0x0000 exactly when the sum is
0xFFFF, and is so for the rule's example (R134). -/
def Obligations.ChecksumIsNeverAllOnes : Prop :=
  (∀ (H : HeaderValue) (bs : List Byte), headerBytes0 H = .ok bs →
    ∃ c : Half, computeChecksum H = .ok c ∧ c.toNat = 0xFFFF - (ocSum bs).toNat ∧ c ≠ 0xFFFF ∧
      (c = 0 ↔ ocSum bs = 0xFFFF)) ∧
  computeChecksum { fields := { Fields.reset with version := 4, identification := 0xBAEB }, options := [], payload := [] } =
    .ok 0

/-- HeaderBytes0 of a decoded packet is its header bytes with bytes 10 and 11 zeroed, so its checksum is CsumBytes of them;
on twenty zero bytes CsumBytes is 0xFFFF, which is the checksum of no header value (R133). -/
def Obligations.ChecksumOfADecodedPacket : Prop :=
  (∀ (bs : List Byte) (H : HeaderValue), decodePacket bs = .ok H →
    headerBytes0 H = .ok (((bs.take (4 * H.fields.ihl.toNat)).set 10 0).set 11 0) ∧
    computeChecksum H = .ok (csumBytes (bs.take (4 * H.fields.ihl.toNat)))) ∧
  csumBytes (List.replicate 20 0) = 0xFFFF ∧
  (∀ H : HeaderValue, computeChecksum H ≠ .ok 0xFFFF)

/-- Flipping one bit outside bytes 10 and 11 changes CsumBytes; a flip inside them does not (R135). -/
def Obligations.SingleBitFlipChangesTheChecksum : Prop :=
  ∀ (bs : List Byte) (i k : Nat), bs.length % 2 = 0 → i < bs.length → k < 8 →
    (i ≠ 10 → i ≠ 11 → csumBytes (bs.set i (bs.getD i 0 ^^^ (1#8 <<< k))) ≠ csumBytes bs) ∧
    (i = 10 ∨ i = 11 → csumBytes (bs.set i (bs.getD i 0 ^^^ (1#8 <<< k))) = csumBytes bs)

/-- VERIFY's function is a comparison of the recomputed checksum with the stored one, and differs from the test that the
sum over the header with the stored checksum is 0xFFFF in one case alone: computed 0x0000, stored 0xFFFF (R130, R136). -/
def Obligations.VerifyIsAComparison : Prop :=
  (∀ H : HeaderValue, verifyChecksum H = true ↔ computeChecksum H = .ok H.fields.headerChecksum) ∧
  (∀ H : HeaderValue, H.options.length ≤ 10 → 4 * (5 + H.options.length) + H.payload.length ≤ 65535 →
    (ocSum (headerBytes H.fields H.options H.payload.length H.fields.headerChecksum) = 0xFFFF ↔
      verifyChecksum H = true ∨ (computeChecksum H = .ok 0 ∧ H.fields.headerChecksum = 0xFFFF))) ∧
  verifyChecksum { fields := { Fields.reset with version := 4, identification := 0xBAEB }, options := [], payload := [] } =
    true ∧
  verifyChecksum { fields := { Fields.reset with version := 4, identification := 0xBAEB, headerChecksum := 0xFFFF },
                   options := [], payload := [] } = false

/-- ComputeChecksum depends neither on the payload bytes nor on the stored ihl, totalLength and headerChecksum (R137). -/
def Obligations.ChecksumReadsNoPayloadByte : Prop :=
  ∀ (H : HeaderValue) (i : BitVec 4) (l c : Half) (p : List Byte), p.length = H.payload.length →
    computeChecksum { H with fields := { H.fields with ihl := i, totalLength := l, headerChecksum := c }, payload := p } =
      computeChecksum H

/-- CSUM, issue and completion (R129): for an encodable header value RESULT takes the checksum, STATUS, EREQ and EACT
report success, and nothing else of the block changes.
Nothing is said of the model's own delay and count of issues (log entry 1); LOP keeping the command
is the model's choice (log entry 3). -/
def Obligations.CsumPutsTheChecksumInResult : Prop :=
  ∀ s : State, s.busy = false → s.nopt.toNat ≤ 10 → 4 * (5 + s.nopt.toNat) + s.plen.toNat ≤ 65535 →
    ∃ (c : Half) (t : State), computeChecksum s.headerValue = .ok c ∧
      exec .csum s = .next t ∧ t.busy = true ∧ t.lop = .csum ∧
      complete t = { s with result := c, lop := .csum, busy := false, done := true, err := 0, ereq := 0, eact := 0,
                            answer := some ⟨.ok, none⟩, delay := (complete t).delay, issues := (complete t).issues }

/-- VERIFY, issue and completion, in every state (R131, R182): RESULT is 1 when the header value can be encoded and its checksum
is the stored one, else 0; ERR is 0 always; nothing else of the block changes.
Nothing is said of the model's own delay and count of issues (log entry 1); LOP keeping the command
is the model's choice (log entry 3). -/
def Obligations.VerifyPutsItsAnswerInResult : Prop :=
  ∀ s : State, s.busy = false →
    ∃ (r : Half) (t : State), exec .verify s = .next t ∧ t.busy = true ∧ t.lop = .verify ∧
      complete t = { s with result := r, lop := .verify, busy := false, done := true, err := 0, ereq := 0, eact := 0,
                            answer := some ⟨.ok, none⟩, delay := (complete t).delay, issues := (complete t).issues } ∧
      (s.nopt.toNat ≤ 10 → 4 * (5 + s.nopt.toNat) + s.plen.toNat ≤ 65535 →
        r = if verifyChecksum s.headerValue then 1 else 0) ∧
      (10 < s.nopt.toNat ∨ 65535 < 4 * (5 + s.nopt.toNat) + s.plen.toNat → r = 0)

/-- ENCODE and CSUM of a header value that cannot be encoded: E_TOO_MANY_OPTIONS before E_LEN_OVERFLOW, and all that is
written (R169, R170, R173). -/
def Obligations.UnencodableHeaderIsRefused : Prop :=
  ∀ s : State, s.lop = .encode ∨ s.lop = .csum →
    (10 < s.nopt.toNat →
      complete s = { s with err := 4, ereq := 0, eact := 0, busy := false, done := true,
                            delay := (complete s).delay }) ∧
    (s.nopt.toNat ≤ 10 → 65535 < 4 * (5 + s.nopt.toNat) + s.plen.toNat →
      complete s = { s with err := 5, ereq := 0, eact := 0, busy := false, done := true,
                            delay := (complete s).delay })

/-- The SETCSUM sequence: after a CSUM, writing RESULT to HCSUM makes VERIFY answer 1 (R131, R202). -/
def Obligations.VerifyAfterSetCsumAnswersOne : Prop :=
  ∀ s : State, s.busy = false → s.nopt.toNat ≤ 10 → 4 * (5 + s.nopt.toNat) + s.plen.toNat ≤ 65535 →
    ∃ t u v : State, exec .csum s = .next t ∧
      exec (.wr 10#16 (BitVec.ofNat 32 (complete t).result.toNat)) (complete t) = .next u ∧
      exec .verify u = .next v ∧ (complete v).result = 1 ∧ (complete v).err = 0

/-! ## Rules of the whole machine -/

/-- Errors are all-or-nothing (R175, R176): a completion that reports an error leaves everything but STATUS, EREQ and EACT
as it was at issue, EREQ and EACT are 0 unless it is E_TOO_SHORT, and the code is one of 1 to 5. -/
def Obligations.FailedCommandChangesNothingElse : Prop :=
  ∀ s : State, (complete s).err ≠ 0#3 →
    complete s = { s with err := (complete s).err, ereq := (complete s).ereq, eact := (complete s).eact,
                          busy := false, done := true, delay := (complete s).delay } ∧
    (complete s).err.toNat ≤ 5 ∧
    ((complete s).err = 1#3 → (complete s).ereq = 20 ∧ (complete s).eact = s.blen) ∧
    ((complete s).err ≠ 1#3 → (complete s).ereq = 0 ∧ (complete s).eact = 0)

/-- The result of a command is a function of the state its rule names as its input and of nothing else (R3, R55). -/
def Obligations.ResultsDependOnlyOnInputs : Prop :=
  ∀ s₁ s₂ : State, s₁.lop = s₂.lop →
    (s₁.lop = .decode → s₁.buffer = s₂.buffer →
      (complete s₁).err = (complete s₂).err ∧ (complete s₁).ereq = (complete s₂).ereq ∧
      (complete s₁).eact = (complete s₂).eact ∧
      ((complete s₁).err = 0#3 → (complete s₁).headerValue = (complete s₂).headerValue)) ∧
    (s₁.lop ≠ .decode → s₁.nopt = s₂.nopt → s₁.plen = s₂.plen → s₁.options = s₂.options →
      { s₁.hdr with ihl := 0, totalLength := 0, headerChecksum := 0 } =
        { s₂.hdr with ihl := 0, totalLength := 0, headerChecksum := 0 } →
      (s₁.lop = .encode → s₁.hdr.headerChecksum = s₂.hdr.headerChecksum → s₁.payload = s₂.payload →
        (complete s₁).err = (complete s₂).err ∧
        ((complete s₁).err = 0#3 → (complete s₁).buffer = (complete s₂).buffer)) ∧
      (s₁.lop = .csum → (complete s₁).err = (complete s₂).err ∧
        ((complete s₁).err = 0#3 → (complete s₁).result = (complete s₂).result)) ∧
      (s₁.lop = .verify → s₁.hdr.headerChecksum = s₂.hdr.headerChecksum →
        (complete s₁).err = 0#3 ∧ (complete s₁).result = (complete s₂).result))

/-- Repeating a command without changing its inputs gives the same state again (R47). That LOP still holds the command after
the first completion is the model's choice (log entry 3). -/
def Obligations.RepeatedCommandGivesTheSame : Prop :=
  ∀ s : State, s.Inv → complete (complete s) = complete s

/-- Whatever LATENCY is and whatever the host does while the command is in flight, short of a reset, the command completes
after at most `delay` host events, with exactly the result of completing at once (R46, R198, R199). The queue of host
events and the delay are the model's own (log entries 1 and 4). -/
def Obligations.LatencyNeverChangesAResult : Prop :=
  ∀ s : State, s.busy = true → (∀ e ∈ s.pending, e ≠ .reset) →
    ∃ t : State, runSteps (min s.delay s.pending.length + 1) s = some t ∧ t.busy = false ∧ t.done = true ∧
      { t with pending := s.pending, answer := s.answer } = complete s

/-- Every step keeps the invariant: both memories in canonical form and inside their sizes, BUSY and DONE never both 1, ERR
at most 5, EREQ and EACT as ERR says (R18, R21, R40, R165). The canonical form is that of the model's own lists of written
cells (log entry 2). -/
def Obligations.StepKeepsTheInvariant : Prop :=
  ∀ s t : State, s.Inv → step s = .next t → t.Inv

/-- The reset state meets the invariant, whose canonical form is that of the model's own lists of written cells (log entry
2). -/
def Obligations.ResetMeetsTheInvariant : Prop := State.reset.Inv

/-- The registers of the reset state (R27): all 0, no cell of BUF or PAY written, and the header value it stands for is the
all-zero one, not well-formed but encodable. -/
def Obligations.ResetStateIsAllZero : Prop :=
  State.reset.hdr = { version := 0, ihl := 0, dscp := 0, ecn := 0, totalLength := 0, identification := 0, flags := 0,
                      fragmentOffset := 0, ttl := 0, protocol := 0, headerChecksum := 0, src := 0, dst := 0 } ∧
  State.reset.nopt = 0 ∧ State.reset.plen = 0 ∧ (∀ (k : Nat) (hk : k < 10), State.reset.opt[k] = 0) ∧
  State.reset.statusWord = 0 ∧ State.reset.result = 0 ∧ State.reset.ereq = 0 ∧ State.reset.eact = 0 ∧
  State.reset.blen = 0 ∧ (∀ i : Nat, State.reset.buf.read? i = none ∧ State.reset.pay.read? i = none) ∧
  State.reset.headerValue = { fields := State.reset.hdr, options := [], payload := [] } ∧
  ¬ State.reset.headerValue.WF ∧ ∃ bs : List Byte, encodeHeader State.reset.headerValue = .ok bs

/-- A reset event, also in the middle of a command (R190, R192): the registers are those of the reset state, no cell of BUF
or PAY holds a written value, the command in flight is abandoned, and with no further host event the block stays idle. That
a reset is one of the queued host events, and that LOP and the bus's answer are those of `State.reset`, is the model's
choice (log entries 3, 4, 5 and 10), and so is the copy's number, which a reset keeps (log entry 7). -/
def Obligations.ResetAbandonsTheCommand : Prop :=
  ∀ (s : State) (rest : List HostEvent), ¬ (s.busy = true ∧ s.delay = 0) → s.pending = .reset :: rest →
    ∃ t : State, step s = .next t ∧
      t = { State.reset with pending := rest, issues := t.issues, epoch := t.epoch, delay := t.delay,
                              copy := s.copy } ∧
      t.busy = false ∧ (rest = [] → step t = .next t)

/-- Blocks share nothing (R181): a step of one leaves every other as it is, and is its step alone. That several blocks are a
list of states of which one takes a step at a time is the model's choice (DESIGN CHOICE, log entry 7). -/
def Obligations.BlocksShareNothing : Prop :=
  ∀ (blocks : List State) (k : Nat) (s t : State), blocks[k]? = some s → step s = .next t →
    (stepBlock blocks k)[k]? = some t ∧ ∀ j : Nat, j ≠ k → (stepBlock blocks k)[j]? = blocks[j]?

/-! ## Host programs (30_encoding R80) -/

/-- WAIT ends, in every state and whatever the host does next (`k`): in a state whose last access was an RD STATUS answered
A_OK that shows BUSY 0, and which but for the host's own traffic is the completion of the command in flight, or the same state
where there was none (R80, R199). The queue of host events and the delay, by which the model counts the polls, are its own
(log entries 1 and 4). -/
def Obligations.WaitEndsWithTheCompletion : Prop :=
  ∀ (s : State) (k : State → Host.Outcome HostEnd Fault Refusal), ∃ t : State,
    hostAct .wait k s = k t ∧ t.busy = false ∧ t.answer = some ⟨.ok, some t.statusWord⟩ ∧
    { t with pending := s.pending, answer := s.answer } = if s.busy then complete s else s

/-- SETCSUM (R80, R202): for an encodable header value the host's run finishes with the checksum in RESULT and HCSUM, ERR 0,
and nothing else of the block changed; for any other it stops at the error of CSUM, HCSUM and RESULT as they were, so that
no access follows the RD STATUS that shows it. Nothing is said of LOP, of the delay and of the count of issues (log entries 1
and 3). -/
def Obligations.SetCsumWritesTheChecksumOrStops : Prop :=
  ∀ s : State, s.busy = false →
    (s.nopt.toNat ≤ 10 → 4 * (5 + s.nopt.toNat) + s.plen.toNat ≤ 65535 →
      ∃ (c : Half) (t : State), computeChecksum s.headerValue = .ok c ∧ runHost setCsum s = .next (.finished t) ∧
        t = { s with hdr := { s.hdr with headerChecksum := c }, result := c, done := true, err := 0, ereq := 0, eact := 0,
                     lop := t.lop, pending := [], answer := some ⟨.ok, none⟩, delay := t.delay, issues := t.issues }) ∧
    (10 < s.nopt.toNat ∨ 65535 < 4 * (5 + s.nopt.toNat) + s.plen.toNat →
      ∃ t : State, runHost setCsum s = .next (.stopped t) ∧
        t = { s with done := true, err := if 10 < s.nopt.toNat then 4 else 5, ereq := 0, eact := 0, lop := t.lop,
                     pending := [], answer := some ⟨.ok, some t.statusWord⟩, delay := t.delay, issues := t.issues })
end

