-- ==== Sys2Proof/Laws/State.lean ====
section
/-! SUPPORT. What every update of State leaves in every field: simp lemmas, one for each field and update, so that no later
proof unfolds a record update. -/

namespace Sys2Proof.Machine

section
variable (s : State) (e : CodecError)

@[simp] theorem State.raise_hdr : (s.raise e).hdr = s.hdr := rfl
@[simp] theorem State.raise_nopt : (s.raise e).nopt = s.nopt := rfl
@[simp] theorem State.raise_plen : (s.raise e).plen = s.plen := rfl
@[simp] theorem State.raise_opt : (s.raise e).opt = s.opt := rfl
@[simp] theorem State.raise_busy : (s.raise e).busy = false := rfl
@[simp] theorem State.raise_done : (s.raise e).done = true := rfl
@[simp] theorem State.raise_err : (s.raise e).err = e.code := rfl
@[simp] theorem State.raise_result : (s.raise e).result = s.result := rfl
@[simp] theorem State.raise_ereq : (s.raise e).ereq = e.required := rfl
@[simp] theorem State.raise_eact : (s.raise e).eact = e.actual := rfl
@[simp] theorem State.raise_blen : (s.raise e).blen = s.blen := rfl
@[simp] theorem State.raise_buf : (s.raise e).buf = s.buf := rfl
@[simp] theorem State.raise_pay : (s.raise e).pay = s.pay := rfl
@[simp] theorem State.raise_lop : (s.raise e).lop = s.lop := rfl
@[simp] theorem State.raise_pending : (s.raise e).pending = s.pending := rfl
@[simp] theorem State.raise_answer : (s.raise e).answer = s.answer := rfl
@[simp] theorem State.raise_delay : (s.raise e).delay = 0 := rfl
@[simp] theorem State.raise_issues : (s.raise e).issues = s.issues := rfl
@[simp] theorem State.raise_epoch : (s.raise e).epoch = s.epoch := rfl
@[simp] theorem State.raise_copy : (s.raise e).copy = s.copy := rfl

end

section
variable (s : State)

@[simp] theorem State.succeed_hdr : (s.succeed).hdr = s.hdr := rfl
@[simp] theorem State.succeed_nopt : (s.succeed).nopt = s.nopt := rfl
@[simp] theorem State.succeed_plen : (s.succeed).plen = s.plen := rfl
@[simp] theorem State.succeed_opt : (s.succeed).opt = s.opt := rfl
@[simp] theorem State.succeed_busy : (s.succeed).busy = false := rfl
@[simp] theorem State.succeed_done : (s.succeed).done = true := rfl
@[simp] theorem State.succeed_err : (s.succeed).err = 0 := rfl
@[simp] theorem State.succeed_result : (s.succeed).result = s.result := rfl
@[simp] theorem State.succeed_ereq : (s.succeed).ereq = 0 := rfl
@[simp] theorem State.succeed_eact : (s.succeed).eact = 0 := rfl
@[simp] theorem State.succeed_blen : (s.succeed).blen = s.blen := rfl
@[simp] theorem State.succeed_buf : (s.succeed).buf = s.buf := rfl
@[simp] theorem State.succeed_pay : (s.succeed).pay = s.pay := rfl
@[simp] theorem State.succeed_lop : (s.succeed).lop = s.lop := rfl
@[simp] theorem State.succeed_pending : (s.succeed).pending = s.pending := rfl
@[simp] theorem State.succeed_answer : (s.succeed).answer = s.answer := rfl
@[simp] theorem State.succeed_delay : (s.succeed).delay = 0 := rfl
@[simp] theorem State.succeed_issues : (s.succeed).issues = s.issues := rfl
@[simp] theorem State.succeed_epoch : (s.succeed).epoch = s.epoch := rfl
@[simp] theorem State.succeed_copy : (s.succeed).copy = s.copy := rfl

end

section
variable (s : State) (c : Command)

@[simp] theorem State.issue_hdr : (s.issue c).hdr = s.hdr := rfl
@[simp] theorem State.issue_nopt : (s.issue c).nopt = s.nopt := rfl
@[simp] theorem State.issue_plen : (s.issue c).plen = s.plen := rfl
@[simp] theorem State.issue_opt : (s.issue c).opt = s.opt := rfl
@[simp] theorem State.issue_busy : (s.issue c).busy = true := rfl
@[simp] theorem State.issue_done : (s.issue c).done = false := rfl
@[simp] theorem State.issue_err : (s.issue c).err = s.err := rfl
@[simp] theorem State.issue_result : (s.issue c).result = s.result := rfl
@[simp] theorem State.issue_ereq : (s.issue c).ereq = s.ereq := rfl
@[simp] theorem State.issue_eact : (s.issue c).eact = s.eact := rfl
@[simp] theorem State.issue_blen : (s.issue c).blen = s.blen := rfl
@[simp] theorem State.issue_buf : (s.issue c).buf = s.buf := rfl
@[simp] theorem State.issue_pay : (s.issue c).pay = s.pay := rfl
@[simp] theorem State.issue_lop : (s.issue c).lop = c := rfl
@[simp] theorem State.issue_pending : (s.issue c).pending = s.pending := rfl
@[simp] theorem State.issue_answer : (s.issue c).answer = s.answer := rfl
@[simp] theorem State.issue_delay : (s.issue c).delay = Config.latency c s := rfl
@[simp] theorem State.issue_issues : (s.issue c).issues = s.issues + 1 := rfl
@[simp] theorem State.issue_epoch : (s.issue c).epoch = s.epoch := rfl
@[simp] theorem State.issue_copy : (s.issue c).copy = s.copy := rfl

end

section
variable (s : State) (r : Response) (d : Option Word)

@[simp] theorem State.respond_hdr : (s.respond r d).hdr = s.hdr := rfl
@[simp] theorem State.respond_nopt : (s.respond r d).nopt = s.nopt := rfl
@[simp] theorem State.respond_plen : (s.respond r d).plen = s.plen := rfl
@[simp] theorem State.respond_opt : (s.respond r d).opt = s.opt := rfl
@[simp] theorem State.respond_busy : (s.respond r d).busy = s.busy := rfl
@[simp] theorem State.respond_done : (s.respond r d).done = s.done := rfl
@[simp] theorem State.respond_err : (s.respond r d).err = s.err := rfl
@[simp] theorem State.respond_result : (s.respond r d).result = s.result := rfl
@[simp] theorem State.respond_ereq : (s.respond r d).ereq = s.ereq := rfl
@[simp] theorem State.respond_eact : (s.respond r d).eact = s.eact := rfl
@[simp] theorem State.respond_blen : (s.respond r d).blen = s.blen := rfl
@[simp] theorem State.respond_buf : (s.respond r d).buf = s.buf := rfl
@[simp] theorem State.respond_pay : (s.respond r d).pay = s.pay := rfl
@[simp] theorem State.respond_lop : (s.respond r d).lop = s.lop := rfl
@[simp] theorem State.respond_pending : (s.respond r d).pending = s.pending := rfl
@[simp] theorem State.respond_answer : (s.respond r d).answer = some ⟨r, d⟩ := rfl
@[simp] theorem State.respond_delay : (s.respond r d).delay = s.delay := rfl
@[simp] theorem State.respond_issues : (s.respond r d).issues = s.issues := rfl
@[simp] theorem State.respond_epoch : (s.respond r d).epoch = s.epoch := rfl
@[simp] theorem State.respond_copy : (s.respond r d).copy = s.copy := rfl

end

section
variable (s : State) (rest : List HostEvent)

@[simp] theorem State.takeEvent_hdr : (s.takeEvent rest).hdr = s.hdr := rfl
@[simp] theorem State.takeEvent_nopt : (s.takeEvent rest).nopt = s.nopt := rfl
@[simp] theorem State.takeEvent_plen : (s.takeEvent rest).plen = s.plen := rfl
@[simp] theorem State.takeEvent_opt : (s.takeEvent rest).opt = s.opt := rfl
@[simp] theorem State.takeEvent_busy : (s.takeEvent rest).busy = s.busy := rfl
@[simp] theorem State.takeEvent_done : (s.takeEvent rest).done = s.done := rfl
@[simp] theorem State.takeEvent_err : (s.takeEvent rest).err = s.err := rfl
@[simp] theorem State.takeEvent_result : (s.takeEvent rest).result = s.result := rfl
@[simp] theorem State.takeEvent_ereq : (s.takeEvent rest).ereq = s.ereq := rfl
@[simp] theorem State.takeEvent_eact : (s.takeEvent rest).eact = s.eact := rfl
@[simp] theorem State.takeEvent_blen : (s.takeEvent rest).blen = s.blen := rfl
@[simp] theorem State.takeEvent_buf : (s.takeEvent rest).buf = s.buf := rfl
@[simp] theorem State.takeEvent_pay : (s.takeEvent rest).pay = s.pay := rfl
@[simp] theorem State.takeEvent_lop : (s.takeEvent rest).lop = s.lop := rfl
@[simp] theorem State.takeEvent_pending : (s.takeEvent rest).pending = rest := rfl
@[simp] theorem State.takeEvent_answer : (s.takeEvent rest).answer = s.answer := rfl
@[simp] theorem State.takeEvent_delay : (s.takeEvent rest).delay = if s.busy then s.delay - 1 else s.delay := rfl
@[simp] theorem State.takeEvent_issues : (s.takeEvent rest).issues = s.issues := rfl
@[simp] theorem State.takeEvent_epoch : (s.takeEvent rest).epoch = s.epoch := rfl
@[simp] theorem State.takeEvent_copy : (s.takeEvent rest).copy = s.copy := rfl

end

section
variable (s : State) (d : Descriptor)

@[simp] theorem State.placeAccess_hdr : (s.placeAccess d).hdr = s.hdr := rfl
@[simp] theorem State.placeAccess_nopt : (s.placeAccess d).nopt = s.nopt := rfl
@[simp] theorem State.placeAccess_plen : (s.placeAccess d).plen = s.plen := rfl
@[simp] theorem State.placeAccess_opt : (s.placeAccess d).opt = s.opt := rfl
@[simp] theorem State.placeAccess_busy : (s.placeAccess d).busy = s.busy := rfl
@[simp] theorem State.placeAccess_done : (s.placeAccess d).done = s.done := rfl
@[simp] theorem State.placeAccess_err : (s.placeAccess d).err = s.err := rfl
@[simp] theorem State.placeAccess_result : (s.placeAccess d).result = s.result := rfl
@[simp] theorem State.placeAccess_ereq : (s.placeAccess d).ereq = s.ereq := rfl
@[simp] theorem State.placeAccess_eact : (s.placeAccess d).eact = s.eact := rfl
@[simp] theorem State.placeAccess_blen : (s.placeAccess d).blen = s.blen := rfl
@[simp] theorem State.placeAccess_buf : (s.placeAccess d).buf = s.buf := rfl
@[simp] theorem State.placeAccess_pay : (s.placeAccess d).pay = s.pay := rfl
@[simp] theorem State.placeAccess_lop : (s.placeAccess d).lop = s.lop := rfl
@[simp] theorem State.placeAccess_pending : (s.placeAccess d).pending = .access d :: s.pending := rfl
@[simp] theorem State.placeAccess_answer : (s.placeAccess d).answer = s.answer := rfl
@[simp] theorem State.placeAccess_delay : (s.placeAccess d).delay = if s.busy then s.delay + 1 else s.delay := rfl
@[simp] theorem State.placeAccess_issues : (s.placeAccess d).issues = s.issues := rfl
@[simp] theorem State.placeAccess_epoch : (s.placeAccess d).epoch = s.epoch := rfl
@[simp] theorem State.placeAccess_copy : (s.placeAccess d).copy = s.copy := rfl

end

section
variable (s : State) (i : Nat) (v : Byte)

@[simp] theorem State.writeBuf_hdr : (s.writeBuf i v).hdr = s.hdr := rfl
@[simp] theorem State.writeBuf_nopt : (s.writeBuf i v).nopt = s.nopt := rfl
@[simp] theorem State.writeBuf_plen : (s.writeBuf i v).plen = s.plen := rfl
@[simp] theorem State.writeBuf_opt : (s.writeBuf i v).opt = s.opt := rfl
@[simp] theorem State.writeBuf_busy : (s.writeBuf i v).busy = s.busy := rfl
@[simp] theorem State.writeBuf_done : (s.writeBuf i v).done = s.done := rfl
@[simp] theorem State.writeBuf_err : (s.writeBuf i v).err = s.err := rfl
@[simp] theorem State.writeBuf_result : (s.writeBuf i v).result = s.result := rfl
@[simp] theorem State.writeBuf_ereq : (s.writeBuf i v).ereq = s.ereq := rfl
@[simp] theorem State.writeBuf_eact : (s.writeBuf i v).eact = s.eact := rfl
@[simp] theorem State.writeBuf_blen : (s.writeBuf i v).blen = s.blen := rfl
@[simp] theorem State.writeBuf_buf : (s.writeBuf i v).buf = s.buf.write i v := rfl
@[simp] theorem State.writeBuf_pay : (s.writeBuf i v).pay = s.pay := rfl
@[simp] theorem State.writeBuf_lop : (s.writeBuf i v).lop = s.lop := rfl
@[simp] theorem State.writeBuf_pending : (s.writeBuf i v).pending = s.pending := rfl
@[simp] theorem State.writeBuf_answer : (s.writeBuf i v).answer = s.answer := rfl
@[simp] theorem State.writeBuf_delay : (s.writeBuf i v).delay = s.delay := rfl
@[simp] theorem State.writeBuf_issues : (s.writeBuf i v).issues = s.issues := rfl
@[simp] theorem State.writeBuf_epoch : (s.writeBuf i v).epoch = s.epoch := rfl
@[simp] theorem State.writeBuf_copy : (s.writeBuf i v).copy = s.copy := rfl

end

section
variable (s : State) (i : Nat) (v : Byte)

@[simp] theorem State.writePay_hdr : (s.writePay i v).hdr = s.hdr := rfl
@[simp] theorem State.writePay_nopt : (s.writePay i v).nopt = s.nopt := rfl
@[simp] theorem State.writePay_plen : (s.writePay i v).plen = s.plen := rfl
@[simp] theorem State.writePay_opt : (s.writePay i v).opt = s.opt := rfl
@[simp] theorem State.writePay_busy : (s.writePay i v).busy = s.busy := rfl
@[simp] theorem State.writePay_done : (s.writePay i v).done = s.done := rfl
@[simp] theorem State.writePay_err : (s.writePay i v).err = s.err := rfl
@[simp] theorem State.writePay_result : (s.writePay i v).result = s.result := rfl
@[simp] theorem State.writePay_ereq : (s.writePay i v).ereq = s.ereq := rfl
@[simp] theorem State.writePay_eact : (s.writePay i v).eact = s.eact := rfl
@[simp] theorem State.writePay_blen : (s.writePay i v).blen = s.blen := rfl
@[simp] theorem State.writePay_buf : (s.writePay i v).buf = s.buf := rfl
@[simp] theorem State.writePay_pay : (s.writePay i v).pay = s.pay.write i v := rfl
@[simp] theorem State.writePay_lop : (s.writePay i v).lop = s.lop := rfl
@[simp] theorem State.writePay_pending : (s.writePay i v).pending = s.pending := rfl
@[simp] theorem State.writePay_answer : (s.writePay i v).answer = s.answer := rfl
@[simp] theorem State.writePay_delay : (s.writePay i v).delay = s.delay := rfl
@[simp] theorem State.writePay_issues : (s.writePay i v).issues = s.issues := rfl
@[simp] theorem State.writePay_epoch : (s.writePay i v).epoch = s.epoch := rfl
@[simp] theorem State.writePay_copy : (s.writePay i v).copy = s.copy := rfl

end

section
variable (s : State) (v : Half)

@[simp] theorem State.setResult_hdr : (s.setResult v).hdr = s.hdr := rfl
@[simp] theorem State.setResult_nopt : (s.setResult v).nopt = s.nopt := rfl
@[simp] theorem State.setResult_plen : (s.setResult v).plen = s.plen := rfl
@[simp] theorem State.setResult_opt : (s.setResult v).opt = s.opt := rfl
@[simp] theorem State.setResult_busy : (s.setResult v).busy = s.busy := rfl
@[simp] theorem State.setResult_done : (s.setResult v).done = s.done := rfl
@[simp] theorem State.setResult_err : (s.setResult v).err = s.err := rfl
@[simp] theorem State.setResult_result : (s.setResult v).result = v := rfl
@[simp] theorem State.setResult_ereq : (s.setResult v).ereq = s.ereq := rfl
@[simp] theorem State.setResult_eact : (s.setResult v).eact = s.eact := rfl
@[simp] theorem State.setResult_blen : (s.setResult v).blen = s.blen := rfl
@[simp] theorem State.setResult_buf : (s.setResult v).buf = s.buf := rfl
@[simp] theorem State.setResult_pay : (s.setResult v).pay = s.pay := rfl
@[simp] theorem State.setResult_lop : (s.setResult v).lop = s.lop := rfl
@[simp] theorem State.setResult_pending : (s.setResult v).pending = s.pending := rfl
@[simp] theorem State.setResult_answer : (s.setResult v).answer = s.answer := rfl
@[simp] theorem State.setResult_delay : (s.setResult v).delay = s.delay := rfl
@[simp] theorem State.setResult_issues : (s.setResult v).issues = s.issues := rfl
@[simp] theorem State.setResult_epoch : (s.setResult v).epoch = s.epoch := rfl
@[simp] theorem State.setResult_copy : (s.setResult v).copy = s.copy := rfl

end

section
variable (s : State) (bs : List Byte)

@[simp] theorem State.storePacket_hdr : (s.storePacket bs).hdr = s.hdr := rfl
@[simp] theorem State.storePacket_nopt : (s.storePacket bs).nopt = s.nopt := rfl
@[simp] theorem State.storePacket_plen : (s.storePacket bs).plen = s.plen := rfl
@[simp] theorem State.storePacket_opt : (s.storePacket bs).opt = s.opt := rfl
@[simp] theorem State.storePacket_busy : (s.storePacket bs).busy = s.busy := rfl
@[simp] theorem State.storePacket_done : (s.storePacket bs).done = s.done := rfl
@[simp] theorem State.storePacket_err : (s.storePacket bs).err = s.err := rfl
@[simp] theorem State.storePacket_result : (s.storePacket bs).result = s.result := rfl
@[simp] theorem State.storePacket_ereq : (s.storePacket bs).ereq = s.ereq := rfl
@[simp] theorem State.storePacket_eact : (s.storePacket bs).eact = s.eact := rfl
@[simp] theorem State.storePacket_blen : (s.storePacket bs).blen = BitVec.ofNat 16 bs.length := rfl
@[simp] theorem State.storePacket_buf : (s.storePacket bs).buf = s.buf.writeBytes 0 bs := rfl
@[simp] theorem State.storePacket_pay : (s.storePacket bs).pay = s.pay := rfl
@[simp] theorem State.storePacket_lop : (s.storePacket bs).lop = s.lop := rfl
@[simp] theorem State.storePacket_pending : (s.storePacket bs).pending = s.pending := rfl
@[simp] theorem State.storePacket_answer : (s.storePacket bs).answer = s.answer := rfl
@[simp] theorem State.storePacket_delay : (s.storePacket bs).delay = s.delay := rfl
@[simp] theorem State.storePacket_issues : (s.storePacket bs).issues = s.issues := rfl
@[simp] theorem State.storePacket_epoch : (s.storePacket bs).epoch = s.epoch := rfl
@[simp] theorem State.storePacket_copy : (s.storePacket bs).copy = s.copy := rfl

end

section
variable (s : State) (H : HeaderValue)

@[simp] theorem State.loadHeader_hdr : (s.loadHeader H).hdr = H.fields := rfl
@[simp] theorem State.loadHeader_nopt : (s.loadHeader H).nopt = BitVec.ofNat 4 H.options.length := rfl
@[simp] theorem State.loadHeader_plen : (s.loadHeader H).plen = BitVec.ofNat 16 H.payload.length := rfl
@[simp] theorem State.loadHeader_opt : (s.loadHeader H).opt = writeOptions s.opt H.options := rfl
@[simp] theorem State.loadHeader_busy : (s.loadHeader H).busy = s.busy := rfl
@[simp] theorem State.loadHeader_done : (s.loadHeader H).done = s.done := rfl
@[simp] theorem State.loadHeader_err : (s.loadHeader H).err = s.err := rfl
@[simp] theorem State.loadHeader_result : (s.loadHeader H).result = s.result := rfl
@[simp] theorem State.loadHeader_ereq : (s.loadHeader H).ereq = s.ereq := rfl
@[simp] theorem State.loadHeader_eact : (s.loadHeader H).eact = s.eact := rfl
@[simp] theorem State.loadHeader_blen : (s.loadHeader H).blen = s.blen := rfl
@[simp] theorem State.loadHeader_buf : (s.loadHeader H).buf = s.buf := rfl
@[simp] theorem State.loadHeader_pay : (s.loadHeader H).pay = s.pay.writeBytes 0 H.payload := rfl
@[simp] theorem State.loadHeader_lop : (s.loadHeader H).lop = s.lop := rfl
@[simp] theorem State.loadHeader_pending : (s.loadHeader H).pending = s.pending := rfl
@[simp] theorem State.loadHeader_answer : (s.loadHeader H).answer = s.answer := rfl
@[simp] theorem State.loadHeader_delay : (s.loadHeader H).delay = s.delay := rfl
@[simp] theorem State.loadHeader_issues : (s.loadHeader H).issues = s.issues := rfl
@[simp] theorem State.loadHeader_epoch : (s.loadHeader H).epoch = s.epoch := rfl
@[simp] theorem State.loadHeader_copy : (s.loadHeader H).copy = s.copy := rfl

end

section
variable (s : State)

@[simp] theorem State.resetEvent_hdr : (s.resetEvent).hdr = Fields.reset := rfl
@[simp] theorem State.resetEvent_nopt : (s.resetEvent).nopt = 0 := rfl
@[simp] theorem State.resetEvent_plen : (s.resetEvent).plen = 0 := rfl
@[simp] theorem State.resetEvent_opt : (s.resetEvent).opt = Vector.replicate 10 0#32 := rfl
@[simp] theorem State.resetEvent_busy : (s.resetEvent).busy = false := rfl
@[simp] theorem State.resetEvent_done : (s.resetEvent).done = false := rfl
@[simp] theorem State.resetEvent_err : (s.resetEvent).err = 0 := rfl
@[simp] theorem State.resetEvent_result : (s.resetEvent).result = 0 := rfl
@[simp] theorem State.resetEvent_ereq : (s.resetEvent).ereq = 0 := rfl
@[simp] theorem State.resetEvent_eact : (s.resetEvent).eact = 0 := rfl
@[simp] theorem State.resetEvent_blen : (s.resetEvent).blen = 0 := rfl
@[simp] theorem State.resetEvent_buf : (s.resetEvent).buf = [] := rfl
@[simp] theorem State.resetEvent_pay : (s.resetEvent).pay = [] := rfl
@[simp] theorem State.resetEvent_lop : (s.resetEvent).lop = .decode := rfl
@[simp] theorem State.resetEvent_pending : (s.resetEvent).pending = s.pending := rfl
@[simp] theorem State.resetEvent_answer : (s.resetEvent).answer = none := rfl
@[simp] theorem State.resetEvent_delay : (s.resetEvent).delay = 0 := rfl
@[simp] theorem State.resetEvent_issues : (s.resetEvent).issues = s.issues := rfl
@[simp] theorem State.resetEvent_epoch : (s.resetEvent).epoch = s.epoch + 1 := rfl
@[simp] theorem State.resetEvent_copy : (s.resetEvent).copy = s.copy := rfl

end

end Sys2Proof.Machine
end

