-- ==== Sys2Proof/Laws/Access.lean ====
section
/-! SUPPORT. Host accesses: what the common procedure can do, said once. -/

namespace Sys2Proof.Machine

/-- When an access is answered A_OK (44_access R155). -/
theorem accessCheck_eq_ok_iff {kind : Kind} {index : BitVec 16} {data : Word} {busy : Bool} :
    accessCheck kind index data busy = .ok ↔
      accessExists kind index = true ∧ (busy = true → kind = .rd ∧ index = 33#16) ∧ accessFits kind index data = true := by
  cases h1 : accessExists kind index <;> cases busy <;> cases h2 : accessFits kind index data <;>
    simp [accessCheck, h1, h2]; split <;> simp_all

/-- An access that names nothing is answered A_BADREG whatever else holds (60_exceptions R174). -/
theorem accessCheck_eq_badReg {kind : Kind} {index : BitVec 16} (h : accessExists kind index = false) (data : Word)
    (busy : Bool) : accessCheck kind index data busy = .badReg := by simp [accessCheck, h]

/-- While a command is in flight an access to something that exists is A_BUSY, RD STATUS excepted (60_exceptions R174). -/
theorem accessCheck_eq_busy {kind : Kind} {index : BitVec 16} (h : accessExists kind index = true)
    (hk : ¬ (kind = .rd ∧ index = 33#16)) (data : Word) : accessCheck kind index data true = .busy := by
  simp [accessCheck, h]
  tauto

/-- What the common procedure can do: perform the access, or answer with one of the three refusals and change nothing. -/
theorem hostAccess_cases (kind : Kind) (index : BitVec 16) (data : Word) (perform : State → State × Option Word)
    (s : State) :
    (accessCheck kind index data s.busy = .ok ∧
      hostAccess kind index data perform s = .next ((perform s).1.respond .ok (perform s).2)) ∨
    (accessCheck kind index data s.busy ≠ .ok ∧
      hostAccess kind index data perform s = .next (s.respond (accessCheck kind index data s.busy) none)) := by
  unfold hostAccess
  cases h : accessCheck kind index data s.busy <;> simp

/-- An access that is answered A_OK. -/
theorem hostAccess_ok {kind : Kind} {index : BitVec 16} {data : Word} {s : State}
    (h : accessCheck kind index data s.busy = .ok) (perform : State → State × Option Word) :
    hostAccess kind index data perform s = .next ((perform s).1.respond .ok (perform s).2) := by
  simp [hostAccess, h]

/-- An access that is refused changes nothing and returns no data (60_exceptions R171). -/
theorem hostAccess_refused {kind : Kind} {index : BitVec 16} {data : Word} {s : State}
    (h : accessCheck kind index data s.busy ≠ .ok) (perform : State → State × Option Word) :
    hostAccess kind index data perform s = .next (s.respond (accessCheck kind index data s.busy) none) := by
  unfold hostAccess
  cases h' : accessCheck kind index data s.busy <;> simp_all

/-- The number of a register names it. -/
theorem regAt_regNumber (r : Reg) : regAt (regNumber r) = some r := by
  cases r with
  | opt k => fin_cases k <;> rfl
  | _ => rfl

end Sys2Proof.Machine
end

