-- ==== Sys2Proof/Laws/Memory.lean ====
section
/-! SUPPORT. Byte memories: read after write, and that every memory operation keeps the canonical form and the bounds. -/

namespace Sys2Proof.Machine

@[simp] theorem Memory.read?_nil (a : Nat) : Memory.read? [] a = none := rfl

theorem Memory.read?_cons (b : Nat) (v : Byte) (m : Memory) (a : Nat) :
    Memory.read? ((b, v) :: m) a = if a = b then some v else Memory.read? m a := rfl

theorem Memory.write_cons (b : Nat) (w : Byte) (m : Memory) (a : Nat) (v : Byte) :
    Memory.write ((b, w) :: m) a v =
      if a < b then (a, v) :: (b, w) :: m else if a = b then (a, v) :: m else (b, w) :: Memory.write m a v := rfl

/-- Reading the cell just written. -/
@[simp] theorem Memory.read?_write_same (m : Memory) (a : Nat) (v : Byte) : (m.write a v).read? a = some v := by
  induction m with
  | nil => simp [Memory.write, Memory.read?_cons]
  | cons cell m ih =>
    obtain ⟨b, w⟩ := cell
    rw [Memory.write_cons]
    split
    · simp [Memory.read?_cons]
    · split
      · simp [Memory.read?_cons]
      · rw [Memory.read?_cons, if_neg ‹_›, ih]

/-- A write leaves every other cell as it was. -/
theorem Memory.read?_write_other (m : Memory) {a c : Nat} (v : Byte) (h : c ≠ a) : (m.write a v).read? c = m.read? c := by
  induction m with
  | nil => simp [Memory.write, Memory.read?_cons, h]
  | cons cell m ih =>
    obtain ⟨b, w⟩ := cell
    rw [Memory.write_cons]
    split
    · rw [Memory.read?_cons, if_neg h]
    · split
      · rename_i hb
        rw [Memory.read?_cons, if_neg h, Memory.read?_cons, if_neg (hb ▸ h)]
      · rw [Memory.read?_cons, ih, Memory.read?_cons]

theorem Memory.read?_write (m : Memory) (a c : Nat) (v : Byte) :
    (m.write a v).read? c = if c = a then some v else m.read? c := by
  split
  · rename_i h; rw [h, Memory.read?_write_same]
  · exact Memory.read?_write_other m v ‹_›

/-- What every cell reads after consecutive cells have been written. -/
theorem Memory.read?_writeBytes (bs : List Byte) (m : Memory) (a c : Nat) :
    (m.writeBytes a bs).read? c = if a ≤ c ∧ c < a + bs.length then bs[c - a]? else m.read? c := by
  induction bs generalizing m a with
  | nil => simp [Memory.writeBytes]
  | cons v bs ih =>
    rw [Memory.writeBytes, ih, Memory.read?_write]
    by_cases hc : c = a
    · subst hc
      simp
    · by_cases h : a ≤ c ∧ c < a + (bs.length + 1)
      · have h1 : a + 1 ≤ c ∧ c < a + 1 + bs.length := by omega
        have h2 : c - a = (c - (a + 1)) + 1 := by omega
        simp [h, h1, h2]
      · have h1 : ¬ (a + 1 ≤ c ∧ c < a + 1 + bs.length) := by omega
        rw [if_neg h1, if_neg hc, if_neg (by rw [List.length_cons]; exact h)]

theorem Memory.wf_cons_cons (a b : Nat) (v w : Byte) (m : Memory) :
    Memory.wf ((a, v) :: (b, w) :: m) = (decide (a < b) && Memory.wf ((b, w) :: m)) := rfl

theorem Memory.wf_tail {a : Nat} {v : Byte} {m : Memory} (h : Memory.wf ((a, v) :: m) = true) : m.wf = true := by
  cases m with
  | nil => rfl
  | cons cell m =>
    obtain ⟨b, w⟩ := cell
    rw [Memory.wf_cons_cons, Bool.and_eq_true] at h
    exact h.2

/-- Writing a cell above the first keeps the form of the whole list. -/
theorem Memory.wf_cons_write {b a : Nat} {w v : Byte} {m : Memory} (h : Memory.wf ((b, w) :: m) = true) (hba : b < a) :
    Memory.wf ((b, w) :: m.write a v) = true := by
  induction m generalizing b w with
  | nil => simp [Memory.write, Memory.wf, hba]
  | cons cell m ih =>
    obtain ⟨c, x⟩ := cell
    have hbc : b < c ∧ Memory.wf ((c, x) :: m) = true := by
      simpa [Memory.wf_cons_cons] using h
    rw [Memory.write_cons]
    split
    · rename_i hac
      simp [Memory.wf_cons_cons, hba, hac, hbc.2]
    · split
      · rename_i hac
        subst hac
        cases m with
        | nil => simp [Memory.wf, hba]
        | cons cell m =>
          obtain ⟨d, y⟩ := cell
          have := hbc.2
          simp only [Memory.wf_cons_cons, Bool.and_eq_true, decide_eq_true_eq] at this ⊢
          exact ⟨hba, this⟩
      · rw [Memory.wf_cons_cons, Bool.and_eq_true]
        exact ⟨decide_eq_true hbc.1, ih hbc.2 (by omega)⟩

/-- A write keeps the canonical form. -/
theorem Memory.wf_write {m : Memory} (h : m.wf = true) (a : Nat) (v : Byte) : (m.write a v).wf = true := by
  cases m with
  | nil => rfl
  | cons cell m =>
    obtain ⟨b, w⟩ := cell
    rw [Memory.write_cons]
    split
    · rw [Memory.wf_cons_cons, Bool.and_eq_true]
      exact ⟨decide_eq_true ‹_›, h⟩
    · split
      · rename_i hab
        subst hab
        cases m with
        | nil => rfl
        | cons cell m => exact h
      · exact Memory.wf_cons_write h (by omega)

/-- Writing consecutive cells keeps the canonical form. -/
theorem Memory.wf_writeBytes (bs : List Byte) {m : Memory} (h : m.wf = true) (a : Nat) :
    (m.writeBytes a bs).wf = true := by
  induction bs generalizing m a with
  | nil => exact h
  | cons v bs ih => exact ih (Memory.wf_write h a v) (a + 1)

theorem Memory.within_cons (n a : Nat) (v : Byte) (m : Memory) :
    Memory.within n ((a, v) :: m) = (decide (a < n) && Memory.within n m) := rfl

/-- Writing an existing cell keeps the memory inside its size. -/
theorem Memory.within_write {m : Memory} {n : Nat} (h : m.within n = true) {a : Nat} (ha : a < n) (v : Byte) :
    (m.write a v).within n = true := by
  induction m with
  | nil => simp [Memory.write, Memory.within, ha]
  | cons cell m ih =>
    obtain ⟨b, w⟩ := cell
    rw [Memory.within_cons, Bool.and_eq_true, decide_eq_true_eq] at h
    rw [Memory.write_cons]
    split
    · simp [Memory.within_cons, ha, h.1, h.2]
    · split
      · simp [Memory.within_cons, ha, h.2]
      · simp [Memory.within_cons, h.1, ih h.2]

/-- Writing existing consecutive cells keeps the memory inside its size. -/
theorem Memory.within_writeBytes (bs : List Byte) {m : Memory} {n : Nat} (h : m.within n = true) {a : Nat}
    (ha : a + bs.length ≤ n) : (m.writeBytes a bs).within n = true := by
  induction bs generalizing m a with
  | nil => exact h
  | cons v bs ih =>
    rw [List.length_cons] at ha
    exact ih (Memory.within_write h (by omega) v) (by omega)

@[simp] theorem State.buffer_length (s : State) : s.buffer.length = s.blen.toNat := by simp [State.buffer]

@[simp] theorem State.payload_length (s : State) : s.payload.length = s.plen.toNat := by simp [State.payload]

theorem State.options_length (s : State) : s.options.length = min s.nopt.toNat 10 := by simp [State.options]

/-- Every byte of BUF after consecutive bytes have been written from 0 on. -/
theorem State.bufByte_storePacket (s : State) (bs : List Byte) (i : Nat) :
    (s.storePacket bs).bufByte i = if h : i < bs.length then bs[i] else s.bufByte i := by
  simp only [State.bufByte, State.storePacket, Memory.read?_writeBytes]
  split
  · rename_i h
    have : i < bs.length := by omega
    simp [this]
  · rename_i h
    have : ¬ i < bs.length := by omega
    simp [this]

/-- Every byte of PAY after a header value has been loaded. -/
theorem State.payByte_loadHeader (s : State) (H : HeaderValue) (i : Nat) :
    (s.loadHeader H).payByte i = if h : i < H.payload.length then H.payload[i] else s.payByte i := by
  simp only [State.payByte, State.loadHeader, Memory.read?_writeBytes]
  split
  · rename_i h
    have : i < H.payload.length := by omega
    simp [this]
  · rename_i h
    have : ¬ i < H.payload.length := by omega
    simp [this]

/-- Every option register after option words have been loaded. -/
theorem getElem_writeOptions (opt : Vector Word 10) (ws : List Word) (k : Nat) (hk : k < 10) :
    (writeOptions opt ws)[k] = if h : k < ws.length then ws[k] else opt[k] := by
  simp only [writeOptions, Vector.getElem_mapIdx]
  split
  · rename_i h; simp [h]
  · rename_i h; simp [h]

end Sys2Proof.Machine
end

