-- ==== Sys2Proof/Laws/Commands.lean ====
section
/-! SUPPORT. The completion step, command by command: each has its effect or takes one error, and nothing else. -/

namespace Sys2Proof.Machine

/-- An encodable pair of lengths, from the refusal's own definition. -/
theorem encodeError?_eq_none_iff {n p : Nat} : encodeError? n p = none ↔ n ≤ 10 ∧ 4 * (5 + n) + p ≤ 65535 := by
  unfold encodeError? totalBytes headerWords
  split
  · simp; omega
  · split
    · simp; omega
    · simp; omega

/-- More than ten options (60_exceptions R169, R173). -/
theorem encodeError?_eq_tooManyOptions {n p : Nat} (h : 10 < n) : encodeError? n p = some .tooManyOptions := by
  unfold encodeError? headerWords
  rw [if_pos (by omega)]

/-- Few enough options and a total length that needs 17 bits (60_exceptions R170). -/
theorem encodeError?_eq_lenOverflow {n p : Nat} (h : n ≤ 10) (hp : 65535 < 4 * (5 + n) + p) :
    encodeError? n p = some .lenOverflow := by
  unfold encodeError? totalBytes headerWords
  rw [if_neg (by omega), if_pos (by omega)]

/-- A result that needs an encodable header value is there exactly for one. -/
theorem ifEncodable_ok {α : Type} {n p : Nat} (h : encodeError? n p = none) (x : α) : ifEncodable n p x = .ok x := by
  simp [ifEncodable, h]

theorem ifEncodable_error {α : Type} {n p : Nat} {e : CodecError} (h : encodeError? n p = some e) (x : α) :
    ifEncodable n p x = .error e := by simp [ifEncodable, h]

theorem ifEncodable_eq_ok_iff {α : Type} {n p : Nat} {x y : α} :
    ifEncodable n p x = .ok y ↔ encodeError? n p = none ∧ x = y := by
  unfold ifEncodable
  cases encodeError? n p <;> simp

theorem ifEncodable_eq_error_iff {α : Type} {n p : Nat} {x : α} {e : CodecError} :
    ifEncodable n p x = .error e ↔ encodeError? n p = some e := by
  unfold ifEncodable
  cases encodeError? n p <;> simp

/-- DECODE's completion has one of two forms (41_decode R91). -/
theorem completeDecode_cases (s : State) :
    (∃ e, decodePacket s.buffer = .error e ∧ completeDecode s = s.raise e) ∨
    (∃ H, decodePacket s.buffer = .ok H ∧ completeDecode s = (s.loadHeader H).succeed) := by
  unfold completeDecode
  cases h : decodePacket s.buffer with
  | error e => exact .inl ⟨e, rfl, rfl⟩
  | ok H => exact .inr ⟨H, rfl, rfl⟩

/-- ENCODE's completion has one of two forms (42_encode R111). -/
theorem completeEncode_cases (s : State) :
    (∃ e, s.encoded = .error e ∧ completeEncode s = s.raise e) ∨
    (∃ bs, s.encoded = .ok bs ∧ completeEncode s = (s.storePacket bs).succeed) := by
  unfold completeEncode
  cases h : s.encoded with
  | error e => exact .inl ⟨e, rfl, rfl⟩
  | ok bs => exact .inr ⟨bs, rfl, rfl⟩

/-- CSUM's completion has one of two forms (43_checksum R129). -/
theorem completeCsum_cases (s : State) :
    (∃ e, s.checksum = .error e ∧ completeCsum s = s.raise e) ∨
    (∃ r, s.checksum = .ok r ∧ completeCsum s = (s.setResult r).succeed) := by
  unfold completeCsum
  cases h : s.checksum with
  | error e => exact .inl ⟨e, rfl, rfl⟩
  | ok r => exact .inr ⟨r, rfl, rfl⟩

/-- The completion is that of the command LOP holds (10_state R25). -/
theorem complete_decode {s : State} (h : s.lop = .decode) : complete s = completeDecode s := by rw [complete, h]

theorem complete_encode {s : State} (h : s.lop = .encode) : complete s = completeEncode s := by rw [complete, h]

theorem complete_csum {s : State} (h : s.lop = .csum) : complete s = completeCsum s := by rw [complete, h]

theorem complete_verify {s : State} (h : s.lop = .verify) : complete s = completeVerify s := by rw [complete, h]

@[simp] theorem halfBytes_length (v : Half) : (halfBytes v).length = 2 := rfl

@[simp] theorem wordBytes_length (v : Word) : (wordBytes v).length = 4 := rfl

theorem flatMap_wordBytes_length (ws : List Word) : (ws.flatMap wordBytes).length = 4 * ws.length := by
  induction ws with
  | nil => rfl
  | cons w ws ih => rw [List.flatMap_cons, List.length_append, ih, wordBytes_length, List.length_cons]; omega

/-- The encoded header is 20 bytes and 4 for each option (43_checksum R127). -/
theorem headerBytes_length (h : Fields) (options : List Word) (p : Nat) (checksum : Half) :
    (headerBytes h options p checksum).length = 20 + 4 * options.length := by
  simp only [headerBytes, List.length_append, flatMap_wordBytes_length, halfBytes_length, wordBytes_length,
    List.length_cons, List.length_nil]

end Sys2Proof.Machine
end

