-- ==== Sys2Proof/Laws/Step.lean ====
section
/-! SUPPORT. One step of the block, case by case, and what a host access can do, instruction by instruction. -/

namespace Sys2Proof.Machine

/-- The engine's turn (20_memory R46). -/
theorem step_engine {s : State} (h : s.engineTurn = true) : step s = .next (complete s) := by simp [step, h]

/-- The host's turn, with an access. -/
theorem step_access {s : State} {d : Descriptor} {rest : List HostEvent} (h : s.engineTurn = false)
    (hp : s.pending = .access d :: rest) : step s = exec (decodeDescriptor d) (s.takeEvent rest) := by simp [step, h, hp]

/-- The host's turn, with a reset (70 R190). -/
theorem step_reset {s : State} {rest : List HostEvent} (h : s.engineTurn = false) (hp : s.pending = .reset :: rest) :
    step s = .next (s.takeEvent rest).resetEvent := by simp [step, h, hp]

/-- Nothing to do (70 R200). -/
theorem step_idle {s : State} (h : s.engineTurn = false) (hp : s.pending = []) : step s = .next s := by simp [step, h, hp]

/-- Every host access, whatever the instruction, goes through the common procedure (44_access R155). -/
theorem exec_eq_hostAccess (i : Instr) (s : State) :
    ∃ kind index data perform, exec i s = hostAccess kind index data perform s := by
  cases i with
  | decode => simp only [exec, execDecode, issueCommand]; exact ⟨_, _, _, _, rfl⟩
  | encode => simp only [exec, execEncode, issueCommand]; exact ⟨_, _, _, _, rfl⟩
  | csum => simp only [exec, execCsum, issueCommand]; exact ⟨_, _, _, _, rfl⟩
  | verify => simp only [exec, execVerify, issueCommand]; exact ⟨_, _, _, _, rfl⟩
  | rd index => simp only [exec, execRd]; exact ⟨_, _, _, _, rfl⟩
  | wr index data => simp only [exec, execWr]; exact ⟨_, _, _, _, rfl⟩
  | ldb index => simp only [exec, execLdb]; exact ⟨_, _, _, _, rfl⟩
  | stb index data => simp only [exec, execStb]; exact ⟨_, _, _, _, rfl⟩
  | ldp index => simp only [exec, execLdp]; exact ⟨_, _, _, _, rfl⟩
  | stp index data => simp only [exec, execStp]; exact ⟨_, _, _, _, rfl⟩
  | reserved kind => simp only [exec, execReserved]; exact ⟨_, _, _, _, rfl⟩

/-- A write to a register leaves the copy's number. -/
@[simp] theorem writeReg_copy (s : State) (r : Reg) (v : Word) : (writeReg s r v).copy = s.copy := by cases r <;> rfl

/-- The common procedure leaves the copy's number when what it performs does. -/
theorem hostAccess_copy {kind : Kind} {index : BitVec 16} {data : Word} {perform : State → State × Option Word} {s t : State}
    (hp : (perform s).1.copy = s.copy) (h : hostAccess kind index data perform s = .next t) : t.copy = s.copy := by
  obtain ⟨-, e⟩ | ⟨-, e⟩ := hostAccess_cases kind index data perform s
  all_goals rw [e] at h; cases h; simp [hp]

/-- No instruction changes the copy's number. -/
theorem exec_copy {i : Instr} {s t : State} (h : exec i s = .next t) : t.copy = s.copy := by
  cases i <;> simp only [exec, execDecode, execEncode, execCsum, execVerify, execRd, execWr, execLdb, execStb, execLdp,
    execStp, execReserved, issueCommand] at h <;> refine hostAccess_copy ?_ h
  case wr index data => cases regAt index <;> simp
  all_goals rfl

/-- No completion changes the copy's number. -/
@[simp] theorem complete_copy (s : State) : (complete s).copy = s.copy := by
  unfold complete
  cases s.lop with
  | decode => obtain ⟨_, -, e⟩ | ⟨_, -, e⟩ := completeDecode_cases s <;> simp [e]
  | encode => obtain ⟨_, -, e⟩ | ⟨_, -, e⟩ := completeEncode_cases s <;> simp [e]
  | csum => obtain ⟨_, -, e⟩ | ⟨_, -, e⟩ := completeCsum_cases s <;> simp [e]
  | verify => rfl

/-- No step changes the copy's number, so copies that start with different numbers keep them (60_exceptions R181). -/
theorem step_copy {s t : State} (h : step s = .next t) : t.copy = s.copy := by
  unfold step at h
  split at h
  · cases h; simp
  · split at h
    · cases h; rfl
    · cases h; simp
    · exact (exec_copy h).trans (State.takeEvent_copy _ _)

end Sys2Proof.Machine
end

