-- ==== Sys2Proof/Laws/HostProgram.lean ====
section
/-! SUPPORT. What a host's accesses do: one access is the completion or nothing, and then exec; WAIT ends. -/

namespace Sys2Proof.Machine

/-- The host presents one access. -/
theorem State.loadProgram_one (s : State) (i : Instr) :
    s.loadProgram [i] = { s with pending := [.access (encodeDescriptor i)] } := rfl

/-- An access of an idle block. -/
theorem ask_idle {s : State} (h : s.busy = false) {i : Instr} (hi : decodeDescriptor (encodeDescriptor i) = i) :
    ask i s = exec i { s with pending := [] } := by
  simp [ask, step, State.engineTurn, State.takeEvent, State.loadProgram_one, h, hi]

/-- A completion leaves no command in flight. -/
@[simp] theorem complete_busy (s : State) : (complete s).busy = false := by
  unfold complete
  cases s.lop with
  | decode => obtain ⟨_, -, e⟩ | ⟨_, -, e⟩ := completeDecode_cases s <;> simp [e]
  | encode => obtain ⟨_, -, e⟩ | ⟨_, -, e⟩ := completeEncode_cases s <;> simp [e]
  | csum => obtain ⟨_, -, e⟩ | ⟨_, -, e⟩ := completeCsum_cases s <;> simp [e]
  | verify => rfl

/-- A completion takes no host event. -/
@[simp] theorem complete_pending (s : State) : (complete s).pending = s.pending := by
  unfold complete
  cases s.lop with
  | decode => obtain ⟨_, -, e⟩ | ⟨_, -, e⟩ := completeDecode_cases s <;> simp [e]
  | encode => obtain ⟨_, -, e⟩ | ⟨_, -, e⟩ := completeEncode_cases s <;> simp [e]
  | csum => obtain ⟨_, -, e⟩ | ⟨_, -, e⟩ := completeCsum_cases s <;> simp [e]
  | verify => rfl

/-- An access that comes after the completion of the command in flight. -/
theorem ask_after_completion {s : State} (h : s.busy = true) (hd : s.delay = 0) {i : Instr}
    (hi : decodeDescriptor (encodeDescriptor i) = i) :
    ask i s = exec i { complete (s.loadProgram [i]) with pending := [] } := by
  have e : (s.loadProgram [i]).engineTurn = true := by simp [State.engineTurn, State.loadProgram_one, h, hd]
  have p : (complete (s.loadProgram [i])).pending = [.access (encodeDescriptor i)] := complete_pending _
  simp [ask, e, step_engine e, step_access (s := complete (s.loadProgram [i])) (by simp [State.engineTurn]) p,
    State.takeEvent, hi]

/-- An access that comes before the completion of the command in flight. -/
theorem ask_before_completion {s : State} (h : s.busy = true) {n : Nat} (hd : s.delay = n + 1) {i : Instr}
    (hi : decodeDescriptor (encodeDescriptor i) = i) :
    ask i s = exec i { s with pending := [], delay := n } := by
  simp [ask, step, State.engineTurn, State.takeEvent, State.loadProgram_one, h, hd, hi]

end Sys2Proof.Machine
end

