-- ==== Sys2Proof/Laws/PerInstr.lean ====
section
/-! SUPPORT. A law of every instruction as syntax: the encoder puts the row's kind in bits 50:48 (30_encoding R75). -/

namespace Sys2Proof

/-- Three fields side by side in one number, read back one by one. -/
theorem packed_fields {k i d : Nat} (hk : k < 8) (hi : i < 65536) (hd : d < 4294967296) :
    (k * 281474976710656 + i * 4294967296 + d) % 2251799813685248 / 281474976710656 % 8 = k ∧
    (k * 281474976710656 + i * 4294967296 + d) % 2251799813685248 / 4294967296 % 65536 = i ∧
    (k * 281474976710656 + i * 4294967296 + d) % 2251799813685248 / 1 % 4294967296 = d := by omega

/-- The kind of a packed descriptor. -/
@[simp] theorem kindField_packDescriptor (k : BitVec 3) (i : BitVec 16) (d : Word) :
    kindField (packDescriptor k i d) = k := by
  apply BitVec.eq_of_toNat_eq
  rw [kindField, packDescriptor, BitVec.extractLsb'_toNat, BitVec.toNat_ofNat, Nat.shiftRight_eq_div_pow]
  exact (packed_fields k.isLt i.isLt d.isLt).1

/-- The index of a packed descriptor. -/
@[simp] theorem indexField_packDescriptor (k : BitVec 3) (i : BitVec 16) (d : Word) :
    indexField (packDescriptor k i d) = i := by
  apply BitVec.eq_of_toNat_eq
  rw [indexField, packDescriptor, BitVec.extractLsb'_toNat, BitVec.toNat_ofNat, Nat.shiftRight_eq_div_pow]
  exact (packed_fields k.isLt i.isLt d.isLt).2.1

/-- The data of a packed descriptor. -/
@[simp] theorem dataField_packDescriptor (k : BitVec 3) (i : BitVec 16) (d : Word) :
    dataField (packDescriptor k i d) = d := by
  apply BitVec.eq_of_toNat_eq
  rw [dataField, packDescriptor, BitVec.extractLsb'_toNat, BitVec.toNat_ofNat, Nat.shiftRight_eq_div_pow]
  exact (packed_fields k.isLt i.isLt d.isLt).2.2

end Sys2Proof

namespace Sys2Proof.Laws.KindField

/-- The kind number of the row an instruction stands for (spec/opcode_table.json). -/
def kindOf : Instr → BitVec 3
  | .decode | .encode | .csum | .verify => 1#3
  | .rd _ => 0#3
  | .wr _ _ => 1#3
  | .ldb _ => 2#3
  | .stb _ _ => 3#3
  | .ldp _ => 4#3
  | .stp _ _ => 5#3
  | .reserved kind => kind

/-- Bits 50:48 of the encoded descriptor are the row's kind. -/
def Statement (i : Instr) : Prop := kindField (encodeDescriptor i) = kindOf i

theorem decode : Statement .decode := kindField_packDescriptor _ _ _

theorem encode : Statement .encode := kindField_packDescriptor _ _ _

theorem csum : Statement .csum := kindField_packDescriptor _ _ _

theorem verify : Statement .verify := kindField_packDescriptor _ _ _

theorem rd (index : BitVec 16) : Statement (.rd index) := kindField_packDescriptor _ _ _

theorem wr (index : BitVec 16) (data : Word) : Statement (.wr index data) := kindField_packDescriptor _ _ _

theorem ldb (index : BitVec 16) : Statement (.ldb index) := kindField_packDescriptor _ _ _

theorem stb (index : BitVec 16) (data : Word) : Statement (.stb index data) := kindField_packDescriptor _ _ _

theorem ldp (index : BitVec 16) : Statement (.ldp index) := kindField_packDescriptor _ _ _

theorem stp (index : BitVec 16) (data : Word) : Statement (.stp index data) := kindField_packDescriptor _ _ _

theorem reserved (kind : BitVec 3) : Statement (.reserved kind) := kindField_packDescriptor _ _ _

end Sys2Proof.Laws.KindField
end

