-- ==== Sys2Proof/Tests/Slice0.lean ====
section
/-! SUPPORT. Tests whose expected values are the spec's own (30_encoding R75 to R78, 95_test_vectors), and for every
obligation with hypotheses a witness that meets them, clause by clause, at the boundaries. -/

namespace Sys2Proof.Tests

open Sys2Proof Sys2Proof.Machine Sys2Proof.Safety

/-! ## Small states -/

/-- The state a step answers with. -/
def nextOf : Host.Outcome State Fault Refusal → State
  | .next s => s
  | .fault _ => State.reset
  | .refused _ => State.reset

/-- Issue and completion of a command, one after the other. -/
def run (i : Instr) (s : State) : State := complete (nextOf (exec i s))

/-- The bus's answer to one access. -/
def answerTo (i : Instr) (s : State) : Option Answer := (nextOf (exec i s)).answer

/-- A packet in BUF and its length in BLEN. -/
def packet (bs : List Byte) : State :=
  { State.reset with buf := Memory.writeBytes [] 0 bs, blen := BitVec.ofNat 16 bs.length }

/-- Reset, with a command in flight. -/
def inFlight : State := { State.reset with busy := true, delay := 3 }

/-- 95_test_vectors S9, V1-3. -/
def bytesS9 : List Byte :=
  [0x45, 0x00, 0x00, 0x14, 0x00, 0x00, 0x40, 0x00, 0x40, 0x06, 0x26, 0xE2, 0x0A, 0x00, 0x00, 0x01, 0x0A, 0x00, 0x00, 0x02]

/-- The fields of S9. -/
def fieldsS9 : Fields :=
  { version := 4, ihl := 5, dscp := 0, ecn := 0, totalLength := 20, identification := 0, flags := 2, fragmentOffset := 0,
    ttl := 64, protocol := 6, headerChecksum := 0x26E2, src := 0x0A000001, dst := 0x0A000002 }

/-- The header value of S9. -/
def valueS9 : HeaderValue := { fields := fieldsS9, options := [], payload := [] }

/-- 95_test_vectors V1-13. -/
def bytesV13 : List Byte :=
  [0x46, 0xB9, 0x00, 0x1D, 0x12, 0x34, 0xA5, 0x5A, 0x80, 0x11, 0xDE, 0xAD, 0xC0, 0xA8, 0x01, 0x64, 0x08, 0x08, 0x04, 0x04,
    0x01, 0x02, 0x03, 0x04, 0xCA, 0xFE, 0xBA, 0xBE, 0x99]

/-- The fields of V1-13. -/
def fieldsV13 : Fields :=
  { version := 4, ihl := 6, dscp := 46, ecn := 1, totalLength := 29, identification := 0x1234, flags := 5,
    fragmentOffset := 0x055A, ttl := 128, protocol := 17, headerChecksum := 0xDEAD, src := 0xC0A80164, dst := 0x08080404 }

/-- Four bytes and then zeros, `n` bytes in all: the shape of V1-4 to V1-11. -/
def zeroFilled (b0 b3 : Byte) (n : Nat) : List Byte := [b0, 0, 0, b3] ++ List.replicate (n - 4) 0

/-- The reset state with the scalar registers of `f`. -/
def holding (f : Fields) : State := { State.reset with hdr := f }

/-! ## Well-formedness: an ill-formed term for each check -/

theorem test_wellFormed_command_is_no_wr : (Instr.wr 32#16 3#32).wellFormed = false := by decide

theorem test_wellFormed_wr_cmd_above_3 : (Instr.wr 32#16 4#32).wellFormed = true := by decide

theorem test_wellFormed_kind_5_is_not_reserved : (Instr.reserved 5#3).wellFormed = false := by decide

/-! ## Decoding: words written out bit by bit, kind 3 bits, index 16, data 32 (R75, opcode_table.json) -/

theorem test_word_decode :
    decodeDescriptor 0b001000000000010000000000000000000000000000000000000#51 = .decode := by decide

theorem test_word_encode :
    decodeDescriptor 0b001000000000010000000000000000000000000000000000001#51 = .encode := by decide

theorem test_word_csum :
    decodeDescriptor 0b001000000000010000000000000000000000000000000000010#51 = .csum := by decide

theorem test_word_verify :
    decodeDescriptor 0b001000000000010000000000000000000000000000000000011#51 = .verify := by decide

theorem test_word_rd :
    decodeDescriptor 0b000000000000010000111111111111111111111111111111111#51 = .rd 33#16 := by decide

theorem test_word_wr :
    decodeDescriptor 0b001000000000000011100000000000000000010000000000000#51 = .wr 7#16 8192#32 := by decide

theorem test_word_ldb :
    decodeDescriptor 0b010111111111111111000000000000000000000000000000000#51 = .ldb 65534#16 := by decide

theorem test_word_stb :
    decodeDescriptor 0b011111111111111111000000000000000000000000010101011#51 = .stb 65534#16 0xAB#32 := by decide

theorem test_word_ldp :
    decodeDescriptor 0b100111111111110101000000000000000000000000000000000#51 = .ldp 65514#16 := by decide

theorem test_word_stp :
    decodeDescriptor 0b101111111111110101000000000000000000000000011001101#51 = .stp 65514#16 0xCD#32 := by decide

theorem test_word_reserved :
    decodeDescriptor 0b110000000000000000000000000000000000000000000000000#51 = .reserved 6#3 := by decide

theorem test_word_too_wide : decodeTableWord 56 0x8000000000000 = none := by decide

theorem test_word_is_run_first :
    (nextOf (step (State.reset.withFetchWord 51 0x1000D0000000B))).nopt = 11#4 := by decide

/-! ## Single accesses and commands -/

/-- V1-13: every field distinct. -/
theorem test_decode_v1_13 :
    (run .decode (packet bytesV13)).hdr = fieldsV13 ∧ (run .decode (packet bytesV13)).opt[0] = 0x01020304#32 ∧
      (run .decode (packet bytesV13)).pay = [(0, 0xCA), (1, 0xFE), (2, 0xBA), (3, 0xBE), (4, 0x99)] := by decide

/-- V1-5: both faults, the length check ranks first; nothing else changes. -/
theorem test_decode_v1_5 :
    (run .decode (packet (zeroFilled 0x44 0x1E 20))).statusWord = 10#32 ∧
      (run .decode (packet (zeroFilled 0x44 0x1E 20))).hdr = Fields.reset := by decide

/-- V2-3: the stored IHL and TLEN are neither read nor written back. -/
theorem test_encode_v2_3 :
    (run .encode (holding { fieldsS9 with ihl := 3, totalLength := 9999 })).buffer = bytesS9 ∧
      (run .encode (holding { fieldsS9 with ihl := 3, totalLength := 9999 })).hdr.totalLength = 9999 := by decide

/-- V2-13: the option count ranks first. -/
theorem test_encode_v2_13 :
    (run .encode { State.reset with nopt := 11, plen := 65535 }).statusWord = 18#32 := by decide

/-- V3-1: the source's reference case. -/
theorem test_csum_v3_1 : (run .csum State.reset).result = 0xFAEB := by decide

/-- V3-12: the payload length enters, with an end-around carry, and no byte of PAY is read. -/
theorem test_csum_v3_12 : (run .csum { holding fieldsS9 with plen := 65515 }).result = 0x26F6 := by decide

/-- V3-23. -/
theorem test_verify_v3_23 :
    (run .verify (holding { Fields.reset with version := 4, identification := 0xBAEB })).result = 1 := by decide

/-- V3-24: a comparison, not a sum-to-ones test. -/
theorem test_verify_v3_24 :
    (run .verify (holding { Fields.reset with version := 4, identification := 0xBAEB, headerChecksum := 0xFFFF })).result =
      0 := by decide

/-- V4-23. -/
theorem test_rd_v4_23 : answerTo (.rd 33#16) inFlight = some ⟨.ok, some 1#32⟩ := by decide

/-- V4-12. -/
theorem test_rd_v4_12 : answerTo (.rd 32#16) State.reset = some ⟨.badReg, none⟩ := by decide

/-- V4-3: 13 bits. -/
theorem test_wr_v4_3 : answerTo (.wr 7#16 8192#32) State.reset = some ⟨.range, none⟩ := by decide

/-- V4-26: existence is checked before busy. -/
theorem test_wr_v4_26 : answerTo (.wr 33#16 99#32) inFlight = some ⟨.badReg, none⟩ := by decide

/-- V4-17, the read. -/
theorem test_ldb_v4_17 :
    answerTo (.ldb 65534#16) { State.reset with buf := [(65534, 0xAB)] } = some ⟨.ok, some 0xAB#32⟩ := by decide

/-- V4-18. -/
theorem test_ldb_v4_18 : answerTo (.ldb 65535#16) State.reset = some ⟨.badReg, none⟩ := by decide

/-- V4-17, the write. -/
theorem test_stb_v4_17 : (nextOf (exec (.stb 65534#16 0xAB#32) State.reset)).buf = [(65534, 0xAB)] := by decide

/-- V4-16. -/
theorem test_stb_v4_16 : answerTo (.stb 0#16 256#32) State.reset = some ⟨.range, none⟩ := by decide

/-- V4-19, the read. -/
theorem test_ldp_v4_19 :
    answerTo (.ldp 65514#16) { State.reset with pay := [(65514, 0xCD)] } = some ⟨.ok, some 0xCD#32⟩ := by decide

/-- V4-20. -/
theorem test_ldp_v4_20 : answerTo (.ldp 65515#16) State.reset = some ⟨.badReg, none⟩ := by decide

/-- V4-19, the write. -/
theorem test_stp_v4_19 : (nextOf (exec (.stp 65514#16 0xCD#32) State.reset)).pay = [(65514, 0xCD)] := by decide

/-- V4-29. -/
theorem test_stp_v4_29 : answerTo (.stp 0#16 1#32) inFlight = some ⟨.busy, none⟩ := by decide

/-- V4-14. -/
theorem test_reserved_v4_14 : answerTo (.reserved 7#3) inFlight = some ⟨.badReg, none⟩ := by decide

/-- Two copies start in the reset state with numbers of their own (R181). -/
theorem test_powerUp_numbers_the_copies :
    (powerUp 2).map State.copy = [0, 1] ∧ ∀ s ∈ powerUp 2, { s with copy := 0 } = State.reset := by decide

/-- A program with a reset still to come is no finished run; RD STATUS alone is one. -/
theorem test_finishedRun_of_a_reset :
    (finishedRun 3 { State.reset with pending := [.reset] }).isNone = true ∧
      (finishedRun 3 (State.reset.loadProgram [.rd 33#16])).isSome = true := by decide

/-- A program begun while a command is in flight whose completion comes first, after a refused access that is none of it. -/
theorem test_finishedRun_looks_at_its_own_answers :
    (finishedRun 4 { State.reset.loadProgram [.rd 33#16] with
      busy := true, lop := .csum, answer := some ⟨.busy, none⟩ }).isSome = true := by decide

/-- The state a host's run ends in, with the way it ends. -/
def endOf : Host.Outcome HostEnd Fault Refusal → HostEnd
  | .next e => e
  | .fault _ => .stillBusy State.reset
  | .refused _ => .stillBusy State.reset

/-- WAIT with three reads that show BUSY 1, then the completion of DECODE with BLEN 0 (V1-1): STATUS 6. -/
theorem test_wait_ends :
    endOf (runHost [.wait] inFlight) =
      .finished { State.reset with done := true, err := 1, ereq := 20, answer := some ⟨.ok, some 6#32⟩ } := by decide

/-- SETCSUM after its CSUM: it stops at ERR 4 (V3-17) and leaves HCSUM; without an error HCSUM takes the RESULT read (V3-3). -/
theorem test_setCsum_after_its_wait :
    endOf (runHost [.stopOnError, .resultToHcsum] { State.reset with err := 4, result := 7 }) =
      .stopped { State.reset with err := 4, result := 7, answer := some ⟨.ok, some 16#32⟩ } ∧
    endOf (runHost [.stopOnError, .resultToHcsum] { State.reset with result := 0x26E2 }) =
      .finished { State.reset with result := 0x26E2, answer := some ⟨.ok, none⟩,
                                   hdr := { Fields.reset with headerChecksum := 0x26E2 } } := by decide

/-! ## Witnesses: a state and operands that meet the hypotheses of each obligation -/

theorem witness_DecodeOfEncodeIsIdentity :
    (Instr.wr 32#16 4#32).wellFormed = true ∧ (Instr.stp 65535#16 0xFFFFFFFF#32).wellFormed = true ∧
      (Instr.reserved 6#3).wellFormed = true := by decide

theorem witness_DecodedDescriptorKeepsItsFields :
    (kindField 0x5FFEA000000CD#51).toNat ≤ 5 ∧ (kindField 0x1000D0000000B#51).toNat = 1 ∧
      (kindField 0x3FFFE000000AB#51).toNat = 3 ∧ (kindField 0x5FFEA000000CD#51).toNat = 5 := by decide

theorem witness_StepRunsTheDecodedAccess :
    (({ inFlight with delay := 0 } : State).busy = true ∧ ({ inFlight with delay := 0 } : State).delay = 0) ∧
    (inFlight.busy = true ∧ inFlight.pending = []) ∧
    (¬ (({ inFlight with pending := [.access 0#51] } : State).busy = true ∧ inFlight.delay = 0) ∧
      ({ inFlight with pending := [.access 0#51] } : State).pending = HostEvent.access 0#51 :: []) ∧
    (State.reset.busy = false ∧ State.reset.pending = []) ∧
    decodeTableWord 51 0x1002000000003 = some .verify := by decide

theorem witness_EveryDescriptorIsAnsweredAsSpecified :
    nothingThere 1 33 ∧ (inFlight.busy = true ∧ ¬ nothingThere 1 8) ∧ doesNotFit 1 0 16 ∧ doesNotFit 3 0 256 ∧
      ¬ nothingThere 2 65534 ∧ nothingThere 2 65535 ∧ Response.range ≠ .ok := by
  refine ⟨by unfold nothingThere; omega, ⟨rfl, by unfold nothingThere; omega⟩, .inl ⟨rfl, 4, rfl, by decide⟩,
    .inr ⟨.inl rfl, by decide⟩, by unfold nothingThere; omega, by unfold nothingThere; omega, by decide⟩

theorem witness_BusyBlockAdmitsOnlyRdStatus :
    inFlight.busy = true ∧ Instr.rd 33#16 = .rd 33#16 ∧ Instr.rd 32#16 ≠ .rd 33#16 ∧ Instr.decode ≠ .rd 33#16 := by decide

/-- An idle block: what the statements about single accesses and issues ask of the state. -/
theorem witness_idle : State.reset.busy = false ∧ ({ State.reset with done := true, err := 5 } : State).busy = false := by
  decide

theorem witness_WrStoresAFittingValue :
    State.reset.busy = false ∧ (15#32).toNat < 2 ^ 4 ∧ (63#32).toNat < 2 ^ 6 ∧ (3#32).toNat < 2 ^ 2 ∧
      (65535#32).toNat < 2 ^ 16 ∧ (7#32).toNat < 2 ^ 3 ∧ (8191#32).toNat < 2 ^ 13 ∧ (255#32).toNat < 2 ^ 8 := by decide

theorem witness_WrRefusesAWideValue :
    State.reset.busy = false ∧ 2 ^ 4 ≤ (16#32).toNat ∧ 2 ^ 6 ≤ (64#32).toNat ∧ 2 ^ 2 ≤ (4#32).toNat ∧
      2 ^ 16 ≤ (65536#32).toNat ∧ 2 ^ 3 ≤ (8#32).toNat ∧ 2 ^ 13 ≤ (8192#32).toNat ∧ 2 ^ 8 ≤ (256#32).toNat := by decide

theorem witness_BufferBytesAreReadAndWritten :
    State.reset.busy = false ∧ (65534#16).toNat ≤ 65534 ∧ 256 ≤ (256#32).toNat ∧ (255#32).toNat < 256 ∧
      65533 ≠ (65534#16).toNat := by decide

theorem witness_PayloadBytesAreReadAndWritten :
    State.reset.busy = false ∧ (65514#16).toNat ≤ 65514 ∧ 256 ≤ (256#32).toNat ∧ (255#32).toNat < 256 ∧
      65513 ≠ (65514#16).toNat := by decide

theorem witness_AccessesLeaveResultsAlone :
    exec (.ldb 65535#16) State.reset = .next { State.reset with answer := some ⟨.badReg, none⟩ } := by rfl

theorem witness_DecodeErrorsComeInOrder :
    (List.replicate 19 (0xFF : Byte)).length < 20 ∧
    (20 ≤ (zeroFilled 0x44 0x1E 20).length ∧ 30 ≠ (zeroFilled 0x44 0x1E 20).length) ∧
    ((zeroFilled 0x44 0x14 20).getD 0 0).toNat % 16 < 5 ∧
    (zeroFilled 0x4F 0x3B 59).length < ((zeroFilled 0x4F 0x3B 59).getD 0 0).toNat % 16 * 4 ∧
    ((zeroFilled 0x4F 0x3C 60).getD 2 0).toNat * 256 + ((zeroFilled 0x4F 0x3C 60).getD 3 0).toNat = 60 ∧
    (5 ≤ ((zeroFilled 0x4F 0x3C 60).getD 0 0).toNat % 16 ∧ (zeroFilled 0x4F 0x3C 60).length = 60) := by decide

/-- For every statement with the hypothesis that a byte sequence decodes. -/
theorem witness_decodes : decodePacket bytesS9 = .ok valueS9 := by rfl

theorem witness_DecodedHeaderIsWellFormed :
    (packet bytesS9).lop = .decode ∧ (complete (packet bytesS9)).err = 0#3 := by decide

theorem witness_DecodeLoadsTheHeaderValue :
    (packet bytesS9).busy = false ∧ (packet bytesS9).buffer = bytesS9 ∧ decodePacket bytesS9 = .ok valueS9 :=
  ⟨rfl, by decide, by rfl⟩

theorem witness_DecodeReportsItsErrors :
    ((packet (List.replicate 19 0xFF)).lop = .decode ∧ (packet (List.replicate 19 0xFF)).blen.toNat < 20) ∧
    (20 ≤ (packet (zeroFilled 0x44 0x1E 20)).blen.toNat ∧
      ((packet (zeroFilled 0x44 0x1E 20)).bufByte 2).toNat * 256 + ((packet (zeroFilled 0x44 0x1E 20)).bufByte 3).toNat ≠ 20) ∧
    (((packet (zeroFilled 0x44 0x14 20)).bufByte 2).toNat * 256 + ((packet (zeroFilled 0x44 0x14 20)).bufByte 3).toNat = 20 ∧
      ((packet (zeroFilled 0x44 0x14 20)).bufByte 0).toNat % 16 < 5) ∧
    (((packet (zeroFilled 0x4F 0x3B 59)).bufByte 2).toNat * 256 + ((packet (zeroFilled 0x4F 0x3B 59)).bufByte 3).toNat = 59 ∧
      (packet (zeroFilled 0x4F 0x3B 59)).blen.toNat < ((packet (zeroFilled 0x4F 0x3B 59)).bufByte 0).toNat % 16 * 4) := by
  decide

theorem witness_EncodedBytesFollowTheWireFormat :
    10 < (List.replicate 11 (0 : Word)).length ∧
    ((List.replicate 10 (0 : Word)).length ≤ 10 ∧
      65535 < 4 * (5 + (List.replicate 10 (0 : Word)).length) + (List.replicate 65476 (0 : Byte)).length) ∧
    4 * (5 + (List.replicate 10 (0 : Word)).length) + (List.replicate 65475 (0 : Byte)).length ≤ 65535 := by
  simp only [List.length_replicate]; decide

theorem witness_DecodeOfEncodedHeader : valueS9.WF := ⟨by decide, by decide, by decide, by decide⟩

/-- For ENCODE, CSUM, SETCSUM and the round trip on the machine: the smallest and two of the largest encodable states. -/
theorem witness_encodable :
    State.reset.busy = false ∧
    (State.reset.nopt.toNat ≤ 10 ∧ 4 * (5 + State.reset.nopt.toNat) + State.reset.plen.toNat ≤ 65535) ∧
    ((10#4).toNat ≤ 10 ∧ 4 * (5 + (10#4).toNat) + (65475#16).toNat ≤ 65535) ∧
    4 * (5 + (0#4).toNat) + (65515#16).toNat ≤ 65535 := by decide

/-- For VERIFY and the refused ENCODE and CSUM: the least option count and the least lengths that are refused. -/
theorem witness_unencodable :
    (({ State.reset with lop := .encode, nopt := 11 } : State).lop = .encode ∧ 10 < (11#4).toNat) ∧
    (({ State.reset with lop := .csum, plen := 65516 } : State).lop = .csum ∧ (0#4).toNat ≤ 10 ∧
      65535 < 4 * (5 + (0#4).toNat) + (65516#16).toNat) ∧
    65535 < 4 * (5 + (10#4).toNat) + (65476#16).toNat := by decide

theorem witness_OcSumIsTheSumOfTheWords : bytesS9.length % 2 = 0 ∧ ([] : List Byte).length % 2 = 0 := by decide

theorem witness_OrderAndFoldingDoNotMatter :
    ([1#16, 2#16].Perm [2#16, 1#16]) ∧ bytesS9.length % 2 = 0 ∧
      headerBytes0 valueS9 = .ok ((bytesS9.set 10 0).set 11 0) := ⟨by decide, by decide, by rfl⟩

/-- V3-3 and V3-6: header values with a header to sum, the second with the sum 0xFFFF. -/
theorem witness_ChecksumIsNeverAllOnes :
    headerBytes0 valueS9 = .ok ((bytesS9.set 10 0).set 11 0) ∧ ocSum ((bytesS9.set 10 0).set 11 0) = 0xD91D ∧
      ocSum ([0x45, 0x00, 0x00, 0x14, 0xBA, 0xEB] ++ List.replicate 14 0) = 0xFFFF := ⟨by rfl, by decide, by decide⟩

theorem witness_SingleBitFlipChangesTheChecksum :
    bytesS9.length % 2 = 0 ∧ 19 < bytesS9.length ∧ 0 < 8 ∧ 7 < 8 ∧ 9 ≠ 10 ∧ 12 ≠ 11 ∧ 10 < bytesS9.length ∧
      11 < bytesS9.length := by decide

theorem witness_VerifyIsAComparison :
    valueS9.options.length ≤ 10 ∧ 4 * (5 + valueS9.options.length) + valueS9.payload.length ≤ 65535 := by decide

theorem witness_ChecksumReadsNoPayloadByte :
    [0xAA, (0xBB : Byte)].length = ({ valueS9 with payload := [0, 0] } : HeaderValue).payload.length := by decide

theorem witness_FailedCommandChangesNothingElse :
    (complete State.reset).err ≠ 0#3 ∧ (complete State.reset).err = 1#3 ∧
      (complete { State.reset with lop := .csum, nopt := 15 }).err ≠ 0#3 ∧
      (complete { State.reset with lop := .csum, nopt := 15 }).err ≠ 1#3 := by decide

/-- Two states with the same buffer and different registers, two with the same header value but for IHL and TLEN. -/
theorem witness_ResultsDependOnlyOnInputs :
    ((packet bytesS9).lop = .decode ∧ { packet bytesS9 with result := 7, hdr := fieldsV13 }.lop = .decode ∧
      (packet bytesS9).buffer = { packet bytesS9 with result := 7, hdr := fieldsV13 }.buffer ∧
      (complete (packet bytesS9)).err = 0#3) ∧
    (∀ c ∈ [Command.encode, .csum, .verify],
      ({ holding fieldsS9 with lop := c } : State).lop = { holding { fieldsS9 with ihl := 0 } with lop := c, blen := 9 }.lop ∧
      ({ holding fieldsS9 with lop := c } : State).lop ≠ .decode ∧
      ({ holding fieldsS9 with lop := c } : State).options =
        { holding { fieldsS9 with ihl := 0 } with lop := c, blen := 9 }.options ∧
      ({ holding fieldsS9 with lop := c } : State).payload =
        { holding { fieldsS9 with ihl := 0 } with lop := c, blen := 9 }.payload ∧
      (complete { holding fieldsS9 with lop := c }).err = 0#3) := by decide

theorem witness_LatencyNeverChangesAResult :
    ({ inFlight with pending := [.access 0#51, .access 1#51] } : State).busy = true ∧
      ∀ e ∈ [HostEvent.access 0#51, HostEvent.access 1#51], e ≠ .reset := by decide

/-- For the two statements that assume the invariant: a state of a failed DECODE and one step of it. -/
theorem witness_invariant :
    ({ State.reset with done := true, err := 1, ereq := 20, eact := 19, blen := 19, buf := [(65534, 1)],
                        pay := [(65514, 1)] } : State).Inv ∧
      step State.reset = .next State.reset :=
  ⟨⟨by decide, by decide, by decide, by decide, by decide, by decide, by decide, by decide⟩, by rfl⟩

theorem witness_ResetAbandonsTheCommand :
    ¬ (inFlight.busy = true ∧ inFlight.delay = 0) ∧
      ({ inFlight with pending := [.reset, .access 0#51] } : State).pending = HostEvent.reset :: [.access 0#51] := by decide

theorem witness_BlocksShareNothing :
    [State.reset, inFlight][0]? = some State.reset ∧ step State.reset = .next State.reset ∧ 1 ≠ 0 :=
  ⟨by rfl, by rfl, by decide⟩

end Sys2Proof.Tests
end

/-! What each completion writes, as a function of what it computes, and O41: what it computes is a function of the
inputs R55 names. -/

namespace Sys2Proof.Machine

/-! ## A completion whose computed value is known -/

section
variable {s : State}

theorem completeDecode_of_ok {H : HeaderValue} (h : decodePacket s.buffer = .ok H) :
    completeDecode s = (s.loadHeader H).succeed := by rw [completeDecode, h]

theorem completeDecode_of_error {e : CodecError} (h : decodePacket s.buffer = .error e) :
    completeDecode s = s.raise e := by rw [completeDecode, h]

theorem completeEncode_of_ok {bs : List Byte} (h : s.encoded = .ok bs) :
    completeEncode s = (s.storePacket bs).succeed := by rw [completeEncode, h]

theorem completeEncode_of_error {e : CodecError} (h : s.encoded = .error e) :
    completeEncode s = s.raise e := by rw [completeEncode, h]

theorem completeCsum_of_ok {r : Half} (h : s.checksum = .ok r) :
    completeCsum s = (s.setResult r).succeed := by rw [completeCsum, h]

theorem completeCsum_of_error {e : CodecError} (h : s.checksum = .error e) :
    completeCsum s = s.raise e := by rw [completeCsum, h]

end

/-- Every typed error has a code of its own, and 0 is that of success (60_exceptions R165). -/
@[simp] theorem CodecError.code_ne_zero (e : CodecError) : e.code ≠ 0#3 := by
  cases e <;> simp [CodecError.code]

/-! ## DECODE: the header value after it is the decoded one -/

/-- What decodes has storage in a block: IHL is a 4-bit number, and the payload is part of the buffer (41_decode R90). -/
theorem decodePacket_ok_bounds {bs : List Byte} {H : HeaderValue} (h : decodePacket bs = .ok H) :
    H.options.length ≤ 10 ∧ H.payload.length ≤ bs.length := by
  simp only [decodePacket] at h
  split_ifs at h
  cases h
  have ihl_lt := (parseFields bs).ihl.isLt
  simp only [List.length_map, List.length_range, List.length_drop]
  omega

/-- A loaded header value that has storage is the one the state stands for, whatever it held before. -/
theorem State.headerValue_loadHeader (s : State) {H : HeaderValue} (ho : H.options.length ≤ 10)
    (hp : H.payload.length < 65536) : (s.loadHeader H).headerValue = H := by
  have nopt_eq : (s.loadHeader H).nopt.toNat = H.options.length := by
    rw [loadHeader_nopt, BitVec.toNat_ofNat, Nat.mod_eq_of_lt (by omega)]
  have plen_eq : (s.loadHeader H).plen.toNat = H.payload.length := by
    rw [loadHeader_plen, BitVec.toNat_ofNat, Nat.mod_eq_of_lt hp]
  have options_eq : (s.loadHeader H).options = H.options := by
    refine List.ext_getElem (by rw [options_length, nopt_eq]; omega) fun k hk hk' => ?_
    simp [State.options, getElem_writeOptions, hk']
  have payload_eq : (s.loadHeader H).payload = H.payload := by
    refine List.ext_getElem (by rw [payload_length, plen_eq]) fun k hk hk' => ?_
    simp [State.payload, payByte_loadHeader, hk']
  rw [headerValue, options_eq, payload_eq, loadHeader_hdr]

@[simp] theorem State.succeed_headerValue (s : State) : s.succeed.headerValue = s.headerValue := rfl

theorem completeDecode_headerValue {s : State} {H : HeaderValue} (h : decodePacket s.buffer = .ok H) :
    (completeDecode s).headerValue = H := by
  obtain ⟨ho, hp⟩ := decodePacket_ok_bounds h
  rw [State.buffer_length] at hp
  rw [completeDecode_of_ok h, State.succeed_headerValue,
    State.headerValue_loadHeader s ho (Nat.lt_of_le_of_lt hp s.blen.isLt)]

/-- DECODE reads the buffer alone (20_memory R55). -/
theorem completeDecode_congr {s₁ s₂ : State} (h : s₁.buffer = s₂.buffer) :
    (completeDecode s₁).err = (completeDecode s₂).err ∧ (completeDecode s₁).ereq = (completeDecode s₂).ereq ∧
    (completeDecode s₁).eact = (completeDecode s₂).eact ∧
    ((completeDecode s₁).err = 0#3 → (completeDecode s₁).headerValue = (completeDecode s₂).headerValue) := by
  cases h₁ : decodePacket s₁.buffer with
  | error e => simp [completeDecode_of_error h₁, completeDecode_of_error (h ▸ h₁)]
  | ok H =>
    have h₂ : decodePacket s₂.buffer = .ok H := h ▸ h₁
    rw [completeDecode_headerValue h₁, completeDecode_headerValue h₂]
    simp [completeDecode_of_ok h₁, completeDecode_of_ok h₂]

/-! ## ENCODE: the buffer after it is the encoded packet -/

/-- An encoded packet has a length BLEN can hold (42_encode R110). -/
theorem State.encoded_length_lt {s : State} {bs : List Byte} (h : s.encoded = .ok bs) : bs.length < 65536 := by
  obtain ⟨hn, rfl⟩ := ifEncodable_eq_ok_iff.mp h
  have fits := encodeError?_eq_none_iff.mp hn
  rw [List.length_append, headerBytes_length, options_length, payload_length]
  omega

/-- A stored packet is the buffer, whatever BUF held before. -/
theorem State.buffer_storePacket (s : State) {bs : List Byte} (h : bs.length < 65536) : (s.storePacket bs).buffer = bs := by
  have blen_eq : (s.storePacket bs).blen.toNat = bs.length := by
    rw [storePacket_blen, BitVec.toNat_ofNat, Nat.mod_eq_of_lt h]
  refine List.ext_getElem (by rw [buffer_length, blen_eq]) fun k hk hk' => ?_
  simp [State.buffer, bufByte_storePacket, hk']

@[simp] theorem State.succeed_buffer (s : State) : s.succeed.buffer = s.buffer := rfl

theorem completeEncode_buffer {s : State} {bs : List Byte} (h : s.encoded = .ok bs) : (completeEncode s).buffer = bs := by
  rw [completeEncode_of_ok h, State.succeed_buffer, State.buffer_storePacket s (State.encoded_length_lt h)]

theorem completeEncode_congr {s₁ s₂ : State} (h : s₁.encoded = s₂.encoded) :
    (completeEncode s₁).err = (completeEncode s₂).err ∧
    ((completeEncode s₁).err = 0#3 → (completeEncode s₁).buffer = (completeEncode s₂).buffer) := by
  cases h₁ : s₁.encoded with
  | error e => simp [completeEncode_of_error h₁, completeEncode_of_error (h ▸ h₁)]
  | ok bs =>
    have h₂ : s₂.encoded = .ok bs := h ▸ h₁
    rw [completeEncode_buffer h₁, completeEncode_buffer h₂]
    simp [completeEncode_of_ok h₁, completeEncode_of_ok h₂]

/-! ## CSUM and VERIFY -/

theorem completeCsum_congr {s₁ s₂ : State} (h : s₁.checksum = s₂.checksum) :
    (completeCsum s₁).err = (completeCsum s₂).err ∧
    ((completeCsum s₁).err = 0#3 → (completeCsum s₁).result = (completeCsum s₂).result) := by
  cases h₁ : s₁.checksum with
  | error e => simp [completeCsum_of_error h₁, completeCsum_of_error (h ▸ h₁)]
  | ok r => simp [completeCsum_of_ok h₁, completeCsum_of_ok (h ▸ h₁)]

/-- VERIFY never fails (43_checksum R131). -/
@[simp] theorem completeVerify_err (s : State) : (completeVerify s).err = 0#3 := rfl

@[simp] theorem completeVerify_result (s : State) : (completeVerify s).result = if s.verified then 1 else 0 := rfl

/-! ## What ENCODE, CSUM and VERIFY compute, from the inputs of R55 -/

/-- The encoded header bytes do not depend on the stored ihl, totalLength and headerChecksum (42_encode R110): with the three
zeroed they are the same by definition. -/
theorem headerBytes_congr {h₁ h₂ : Fields}
    (h : { h₁ with ihl := 0, totalLength := 0, headerChecksum := 0 } =
      { h₂ with ihl := 0, totalLength := 0, headerChecksum := 0 }) (options : List Word) (p : Nat) (checksum : Half) :
    headerBytes h₁ options p checksum = headerBytes h₂ options p checksum := by
  have same_bytes := congrArg (headerBytes · options p checksum) h
  exact same_bytes

section
variable {s₁ s₂ : State} (hnopt : s₁.nopt = s₂.nopt) (hplen : s₁.plen = s₂.plen) (hoptions : s₁.options = s₂.options)
  (hfields : { s₁.hdr with ihl := 0, totalLength := 0, headerChecksum := 0 } =
    { s₂.hdr with ihl := 0, totalLength := 0, headerChecksum := 0 })
include hnopt hplen hoptions hfields

theorem State.encoded_congr (hchecksum : s₁.hdr.headerChecksum = s₂.hdr.headerChecksum)
    (hpayload : s₁.payload = s₂.payload) : s₁.encoded = s₂.encoded := by
  rw [encoded, encoded, headerBytes_congr hfields, hnopt, hplen, hoptions, hchecksum, hpayload]

/-- The checksum needs neither the payload's bytes nor the stored checksum (43_checksum R137). -/
theorem State.checksum_congr : s₁.checksum = s₂.checksum := by
  rw [State.checksum, State.checksum, headerBytes_congr hfields, hnopt, hplen, hoptions]

theorem State.verified_congr (hchecksum : s₁.hdr.headerChecksum = s₂.hdr.headerChecksum) :
    s₁.verified = s₂.verified := by
  rw [verified, verified, checksum_congr hnopt hplen hoptions hfields, hchecksum]

end

/-- Settles O41: each completion is a function of what it computes, and that of the inputs R55 names. -/
theorem resultsDependOnlyOnInputs : Obligations.ResultsDependOnlyOnInputs := by
  intro s₁ s₂ hlop
  refine ⟨fun hd hbuffer => ?_, fun _ hnopt hplen hoptions hfields =>
    ⟨fun he hchecksum hpayload => ?_, fun hc => ?_, fun hv hchecksum => ?_⟩⟩
  · rw [complete_decode hd, complete_decode (hlop ▸ hd)]
    exact completeDecode_congr hbuffer
  · rw [complete_encode he, complete_encode (hlop ▸ he)]
    exact completeEncode_congr (State.encoded_congr hnopt hplen hoptions hfields hchecksum hpayload)
  · rw [complete_csum hc, complete_csum (hlop ▸ hc)]
    exact completeCsum_congr (State.checksum_congr hnopt hplen hoptions hfields)
  · rw [complete_verify hv, complete_verify (hlop ▸ hv), completeVerify_result, completeVerify_result,
      State.verified_congr hnopt hplen hoptions hfields hchecksum]
    exact ⟨completeVerify_err s₁, rfl⟩

end Sys2Proof.Machine

/-! The invariant of a block: each update of State keeps it, then each completion, each host access and each step (O44); what
the reset state is (O45, O46); and RD STATUS (O9). -/

namespace Sys2Proof.Machine

/-! ## What the two computations can answer, as far as the invariant asks -/

/-- A decoded payload starts after a header of at least 20 bytes (41_decode R90). -/
theorem decodePacket_ok_payload_le {bs : List Byte} {H : HeaderValue} (h : decodePacket bs = .ok H) :
    20 + H.payload.length ≤ bs.length := by
  simp only [decodePacket] at h
  split_ifs at h
  cases h
  simp only [List.length_drop]
  omega

/-- E_TOO_SHORT is raised for fewer than 20 bytes, and says so (60_exceptions R166). -/
theorem decodePacket_tooShort {bs : List Byte} {required actual : Nat}
    (h : decodePacket bs = .error (.tooShort required actual)) : required = 20 ∧ actual < 20 := by
  simp only [decodePacket] at h
  split_ifs at h with too_short
  all_goals cases h
  exact ⟨rfl, too_short⟩

/-- Nothing is too short to be encoded (42_encode R110). -/
theorem encodeError?_ne_tooShort (n p required actual : Nat) : encodeError? n p ≠ some (.tooShort required actual) := by
  unfold encodeError?
  split_ifs <;> simp

/-! ## Every update of State keeps the invariant -/

namespace State.Inv

variable {s : State}

theorem respond (h : s.Inv) (r : Response) (data : Option Word) : (s.respond r data).Inv := { h with }

theorem takeEvent (h : s.Inv) (rest : List HostEvent) : (s.takeEvent rest).Inv := { h with }

theorem setResult (h : s.Inv) (v : Half) : (s.setResult v).Inv := { h with }

/-- An issue sets BUSY and clears DONE (44_access R149). -/
theorem issue (h : s.Inv) (c : Command) : (s.issue c).Inv := { h with notBusyAndDone := by simp }

theorem succeed (h : s.Inv) : s.succeed.Inv :=
  { h with notBusyAndDone := by simp, errCode := by simp, tooShortRecord := by simp, otherRecord := by simp }

/-- An error keeps the invariant when an E_TOO_SHORT says what R166 says. -/
theorem raise (h : s.Inv) {e : CodecError}
    (he : ∀ required actual, e = .tooShort required actual → required = 20 ∧ actual < 20) : (s.raise e).Inv where
  bufWf := h.bufWf
  bufWithin := h.bufWithin
  payWf := h.payWf
  payWithin := h.payWithin
  notBusyAndDone := by simp
  errCode := by cases e <;> simp [CodecError.code]
  tooShortRecord := by
    cases e with
    | tooShort required actual =>
      obtain ⟨rfl, hlt⟩ := he required actual rfl
      exact fun _ => ⟨rfl, (Nat.mod_le actual _).trans_lt hlt⟩
    | _ => simp [CodecError.code]
  otherRecord := by cases e <;> simp [CodecError.code, CodecError.required, CodecError.actual]

theorem writeBuf (h : s.Inv) {i : Nat} (hi : i < 65535) (v : Byte) : (s.writeBuf i v).Inv :=
  { h with bufWf := Memory.wf_write h.bufWf i v, bufWithin := Memory.within_write h.bufWithin hi v }

theorem writePay (h : s.Inv) {i : Nat} (hi : i < 65515) (v : Byte) : (s.writePay i v).Inv :=
  { h with payWf := Memory.wf_write h.payWf i v, payWithin := Memory.within_write h.payWithin hi v }

theorem storePacket (h : s.Inv) {bs : List Byte} (hbs : bs.length ≤ 65535) : (s.storePacket bs).Inv :=
  { h with bufWf := Memory.wf_writeBytes bs h.bufWf 0, bufWithin := Memory.within_writeBytes bs h.bufWithin (by omega) }

theorem loadHeader (h : s.Inv) {H : HeaderValue} (hp : H.payload.length ≤ 65515) : (s.loadHeader H).Inv :=
  { h with
    payWf := Memory.wf_writeBytes H.payload h.payWf 0
    payWithin := Memory.within_writeBytes H.payload h.payWithin (by omega) }

/-- Only a write to CMD touches a field the invariant speaks of, and that is an issue. -/
theorem writeReg (h : s.Inv) (r : Reg) (v : Word) : (writeReg s r v).Inv := by
  cases r with
  | cmd => exact h.issue _
  | _ => exact { h with }

/-! ## Completions -/

theorem completeDecode (h : s.Inv) : (completeDecode s).Inv := by
  obtain ⟨e, he, hc⟩ | ⟨H, hH, hc⟩ := completeDecode_cases s <;> rw [hc]
  · refine h.raise fun required actual htoo => ?_
    subst htoo
    exact decodePacket_tooShort he
  · have payload_le := decodePacket_ok_payload_le hH
    have blen_lt := s.blen.isLt
    rw [State.buffer_length] at payload_le
    exact (h.loadHeader (by omega)).succeed

/-- An error that the two lengths decide is never E_TOO_SHORT. -/
theorem raise_encodeError (h : s.Inv) {n p : Nat} {e : CodecError} (he : encodeError? n p = some e) : (s.raise e).Inv :=
  h.raise fun required actual htoo => absurd (htoo ▸ he) (encodeError?_ne_tooShort n p required actual)

theorem completeEncode (h : s.Inv) : (completeEncode s).Inv := by
  obtain ⟨e, he, hc⟩ | ⟨bs, hbs, hc⟩ := completeEncode_cases s <;> rw [hc]
  · exact h.raise_encodeError (ifEncodable_eq_error_iff.mp he)
  · exact (h.storePacket (Nat.le_of_lt_succ (State.encoded_length_lt hbs))).succeed

theorem completeCsum (h : s.Inv) : (completeCsum s).Inv := by
  obtain ⟨e, he, hc⟩ | ⟨r, -, hc⟩ := completeCsum_cases s <;> rw [hc]
  · exact h.raise_encodeError (ifEncodable_eq_error_iff.mp he)
  · exact (h.setResult r).succeed

theorem complete (h : s.Inv) : (complete s).Inv := by
  cases hl : s.lop with
  | decode => exact complete_decode hl ▸ h.completeDecode
  | encode => exact complete_encode hl ▸ h.completeEncode
  | csum => exact complete_csum hl ▸ h.completeCsum
  | verify => exact complete_verify hl ▸ (h.setResult _).succeed

end State.Inv

/-! ## Host accesses -/

/-- The common procedure keeps the invariant when what it performs does, once the access is answered A_OK. -/
theorem hostAccess_inv {kind : Kind} {index : BitVec 16} {data : Word} {perform : State → State × Option Word} {s t : State}
    (hs : s.Inv) (hp : accessCheck kind index data s.busy = .ok → (perform s).1.Inv)
    (h : hostAccess kind index data perform s = .next t) : t.Inv := by
  obtain ⟨hok, e⟩ | ⟨-, e⟩ := hostAccess_cases kind index data perform s <;> rw [e] at h <;> cases h
  · exact (hp hok).respond _ _
  · exact hs.respond _ _

theorem exec_inv {i : Instr} {s t : State} (hs : s.Inv) (h : exec i s = .next t) : t.Inv := by
  cases i <;> simp only [exec, execDecode, execEncode, execCsum, execVerify, execRd, execWr, execLdb, execStb, execLdp,
    execStp, execReserved, issueCommand] at h <;> refine hostAccess_inv hs (fun hok => ?_) h
  case decode | encode | csum | verify => exact hs.issue _
  case rd | ldb | ldp | reserved => exact hs
  case wr index data =>
    cases regAt index with
    | none => exact hs
    | some r => exact hs.writeReg r data
  case stb index data =>
    have index_le : index.toNat ≤ 65534 := of_decide_eq_true (accessCheck_eq_ok_iff.mp hok).1
    exact hs.writeBuf (by omega) _
  case stp index data =>
    have index_le : index.toNat ≤ 65514 := of_decide_eq_true (accessCheck_eq_ok_iff.mp hok).1
    exact hs.writePay (by omega) _

/-! ## Reset, and every step -/

/-- Settles O45: nothing is listed as written, and every field of STATUS, EREQ and EACT is 0. -/
theorem resetMeetsTheInvariant : Obligations.ResetMeetsTheInvariant where
  bufWf := rfl
  bufWithin := rfl
  payWf := rfl
  payWithin := rfl
  notBusyAndDone := by decide
  errCode := by decide
  tooShortRecord := by decide
  otherRecord := by decide

theorem State.resetEvent_inv (s : State) : s.resetEvent.Inv := { resetMeetsTheInvariant with }

/-- Settles O44: a step is a completion, a host access, a reset or nothing, and each keeps the invariant. -/
theorem stepKeepsTheInvariant : Obligations.StepKeepsTheInvariant := by
  intro s t hs h
  cases turn : s.engineTurn with
  | true =>
    cases (step_engine turn).symm.trans h
    exact hs.complete
  | false =>
    match pending : s.pending with
    | [] =>
      cases (step_idle turn pending).symm.trans h
      exact hs
    | .reset :: rest =>
      cases (step_reset turn pending).symm.trans h
      exact State.resetEvent_inv _
    | .access d :: rest => exact exec_inv (hs.takeEvent rest) ((step_access turn pending).symm.trans h)

/-! ## The header value of the reset state -/

/-- With NOPT and PLEN 0 the reset state stands for a header value with no options and no payload (10_state R13, R27). -/
theorem State.reset_headerValue :
    State.reset.headerValue = { fields := State.reset.hdr, options := [], payload := [] } := rfl

/-- Its IHL is 0, where 5 would be true (10_state R14). -/
theorem State.reset_headerValue_not_wf : ¬ State.reset.headerValue.WF := by
  intro wf
  have ihl_true := wf.ihlTrue
  rw [State.reset_headerValue] at ihl_true
  exact absurd ihl_true (by decide)

/-- It can be encoded all the same, since the stored IHL is not read (42_encode R110, R114). -/
theorem State.reset_headerValue_encodable : ∃ bs : List Byte, encodeHeader State.reset.headerValue = .ok bs :=
  ⟨_, ifEncodable_ok (encodeError?_eq_none_iff.mpr (by decide)) _⟩

/-- Settles O46: the registers by evaluation, the header value by the three lemmas above. -/
theorem resetStateIsAllZero : Obligations.ResetStateIsAllZero :=
  ⟨rfl, rfl, rfl, fun _ hk => Vector.getElem_replicate hk, by decide, rfl, rfl, rfl, rfl, fun _ => ⟨rfl, rfl⟩,
    State.reset_headerValue, State.reset_headerValue_not_wf, State.reset_headerValue_encodable⟩

/-! ## RD STATUS -/

/-- STATUS as a number: BUSY is bit 0, DONE bit 1, ERR bits 4:2 (10_state R18). -/
theorem State.statusWord_toNat (s : State) :
    s.statusWord.toNat = s.busy.toNat + 2 * s.done.toNat + 4 * s.err.toNat := by
  have busy_le := s.busy.toNat_le
  have done_le := s.done.toNat_le
  have err_lt := s.err.isLt
  simp only [statusWord, statusBits, BitVec.toNat_setWidth, BitVec.toNat_ofNat]
  omega

/-- An RD that is answered A_OK returns the register's value and changes nothing of the block (44_access R145). -/
theorem exec_rd_ok {index : BitVec 16} {s : State} (h : accessCheck .rd index 0#32 s.busy = .ok) :
    exec (.rd index) s = .next (s.respond .ok ((regAt index).bind (readReg s))) := by
  rw [exec, execRd, hostAccess_ok h]

/-- The busy interlock lets RD STATUS through (44_access R155). -/
theorem accessCheck_rd_status (busy : Bool) : accessCheck .rd 33#16 0#32 busy = .ok :=
  accessCheck_eq_ok_iff.mpr ⟨by decide, fun _ => ⟨rfl, rfl⟩, rfl⟩

/-- Settles O9: the interlock lets it through, and what it returns is STATUS as a number. -/
theorem rdStatusAtAnyTime : Obligations.RdStatusAtAnyTime := fun s =>
  ⟨s.statusWord, exec_rd_ok (accessCheck_rd_status s.busy), s.statusWord_toNat⟩

end Sys2Proof.Machine

/-! ENCODE and then DECODE on the machine (O27): what the parser reads from the encoded header bytes, field by field, and then
what the two completions, one after the other, leave in every register. -/

namespace Sys2Proof.Machine

/-! ## Fields of the wire: each reader undoes its writer -/

theorem extractLsb'_packByte_hi {m n : Nat} (hi : BitVec m) (lo : BitVec n) (h : m + n = 8) :
    (packByte hi lo).extractLsb' n m = hi := by
  refine BitVec.eq_of_getLsbD_eq fun i hm => ?_
  have : n + i < 8 := by omega
  simp [packByte, *]

theorem extractLsb'_packByte_lo {m n : Nat} (hi : BitVec m) (lo : BitVec n) (h : m + n = 8) :
    (packByte hi lo).extractLsb' 0 n = lo := by
  refine BitVec.eq_of_getLsbD_eq fun i hn => ?_
  have : i < 8 := by omega
  simp [packByte, *]

theorem beHalf_halfBytes (v : Half) : beHalf (v.extractLsb' 8 8) (v.extractLsb' 0 8) = v := by
  apply BitVec.eq_of_toNat_eq
  have v_lt := v.isLt
  simp only [beHalf, BitVec.toNat_ofNat, BitVec.extractLsb'_toNat, Nat.shiftRight_eq_div_pow]
  omega

theorem beWord_wordBytes (v : Word) :
    beWord (v.extractLsb' 24 8) (v.extractLsb' 16 8) (v.extractLsb' 8 8) (v.extractLsb' 0 8) = v := by
  apply BitVec.eq_of_toNat_eq
  have v_lt := v.isLt
  simp only [beWord, BitVec.toNat_ofNat, BitVec.extractLsb'_toNat, Nat.shiftRight_eq_div_pow]
  omega

/-- FOFF from its upper five and lower eight bits (30_encoding R65). -/
theorem fragmentOffset_of_parts (v : BitVec 13) :
    BitVec.ofNat 13 ((v.extractLsb' 8 5).toNat * 256 + (v.extractLsb' 0 8).toNat) = v := by
  apply BitVec.eq_of_toNat_eq
  have v_lt := v.isLt
  simp only [BitVec.toNat_ofNat, BitVec.extractLsb'_toNat, Nat.shiftRight_eq_div_pow]
  omega

/-! ## The parser on encoded header bytes -/

/-- The fields of an encoded header are the header value's with ihl and totalLength recomputed (42_encode R110). -/
theorem parseFields_headerBytes (h : Fields) (options : List Word) (p : Nat) (checksum : Half) (rest : List Byte) :
    parseFields (headerBytes h options p checksum ++ rest) =
      { h with ihl := BitVec.ofNat 4 (headerWords options.length)
               totalLength := BitVec.ofNat 16 (totalBytes options.length p)
               headerChecksum := checksum } := by
  rw [parseFields, Fields.mk.injEq]
  refine ⟨extractLsb'_packByte_hi _ _ rfl, extractLsb'_packByte_lo _ _ rfl, extractLsb'_packByte_hi _ _ rfl,
    extractLsb'_packByte_lo _ _ rfl, beHalf_halfBytes _, beHalf_halfBytes _, extractLsb'_packByte_hi _ _ rfl, ?_, rfl, rfl,
    beHalf_halfBytes _, beWord_wordBytes _, beWord_wordBytes _⟩
  have upper_bits := extractLsb'_packByte_lo h.flags (h.fragmentOffset.extractLsb' 8 5) rfl
  have foff_eq := fragmentOffset_of_parts h.fragmentOffset
  rw [← upper_bits] at foff_eq
  exact foff_eq

theorem byteAt_append_right (xs ys : List Byte) (i : Nat) : byteAt (xs ++ ys) (xs.length + i) = byteAt ys i := by
  simp [byteAt, List.getD_eq_getElem?_getD, List.getElem?_append_right]

theorem wordAt_append_right (xs ys : List Byte) (i : Nat) : wordAt (xs ++ ys) (xs.length + i) = wordAt ys i := by
  simp only [wordAt, Nat.add_assoc, byteAt_append_right]

/-- The k-th word of a sequence of option words, whatever follows it. -/
theorem wordAt_flatMap_wordBytes (ws : List Word) (rest : List Byte) {k : Nat} (hk : k < ws.length) :
    wordAt (ws.flatMap wordBytes ++ rest) (4 * k) = ws[k] := by
  induction ws generalizing k with
  | nil => exact absurd hk (Nat.not_lt_zero k)
  | cons w ws ih =>
    rw [List.flatMap_cons, List.append_assoc]
    cases k with
    | zero => exact beWord_wordBytes w
    | succ k =>
      have next_word := wordAt_append_right (wordBytes w) (ws.flatMap wordBytes ++ rest) (4 * k)
      rw [wordBytes_length, Nat.add_comm] at next_word
      rw [Nat.mul_succ, next_word, List.getElem_cons_succ]
      exact ih (Nat.lt_of_succ_lt_succ hk)

/-- The fixed header is 20 bytes and the option words come right after it (30_encoding R69). -/
theorem wordAt_headerBytes_option (h : Fields) (options : List Word) (p : Nat) (checksum : Half) (rest : List Byte)
    {k : Nat} (hk : k < options.length) :
    wordAt (headerBytes h options p checksum ++ rest) (20 + 4 * k) = options[k] := by
  have fixed_length := headerBytes_length h [] p checksum
  rw [← wordAt_flatMap_wordBytes options rest hk]
  rw [headerBytes, List.append_assoc]
  exact wordAt_append_right _ (options.flatMap wordBytes ++ rest) (4 * k)

/-- Decode of an encoded packet (42_encode R112): the header value with ihl and totalLength recomputed. -/
theorem decodePacket_headerBytes (h : Fields) {options : List Word} {payload : List Byte} (checksum : Half)
    (ho : options.length ≤ 10) (hl : 4 * (5 + options.length) + payload.length ≤ 65535) :
    decodePacket (headerBytes h options payload.length checksum ++ payload) =
      .ok { fields := { h with ihl := BitVec.ofNat 4 (headerWords options.length)
                               totalLength := BitVec.ofNat 16 (totalBytes options.length payload.length)
                               headerChecksum := checksum }
            options := options
            payload := payload } := by
  have ihl_eq : (BitVec.ofNat 4 (headerWords options.length)).toNat = 5 + options.length := by
    rw [headerWords, BitVec.toNat_ofNat]; omega
  have total_eq : (BitVec.ofNat 16 (totalBytes options.length payload.length)).toNat =
      20 + 4 * options.length + payload.length := by
    rw [totalBytes, headerWords, BitVec.toNat_ofNat]; omega
  have header_length := headerBytes_length h options payload.length checksum
  simp only [decodePacket, parseFields_headerBytes, ihl_eq, total_eq, List.length_append, header_length]
  rw [if_neg (by omega), if_neg (by omega), if_neg (by omega), if_neg (by omega)]
  have options_eq : (List.range (5 + options.length - 5)).map
      (fun k => wordAt (headerBytes h options payload.length checksum ++ payload) (20 + 4 * k)) = options := by
    refine List.ext_getElem (by simp) fun k _ hk => ?_
    simp [wordAt_headerBytes_option h options payload.length checksum payload hk]
  rw [options_eq, List.drop_left' (by rw [header_length]; omega)]

/-! ## Issue, and the two completions -/

/-- An idle block accepts every command (44_access R149). -/
theorem issueCommand_idle {s : State} (h : s.busy = false) (c : Command) :
    issueCommand c s = .next ((s.issue c).respond .ok none) := by
  have accepted : accessCheck .wr 32#16 ((opCode c).setWidth 32) s.busy = .ok :=
    accessCheck_eq_ok_iff.mpr ⟨rfl, by simp [h], by cases c <;> rfl⟩
  rw [issueCommand, hostAccess_ok accepted]

/-- The encoded packet of a state whose lengths fit decodes to its header value with IHL and TLEN recomputed (R112). -/
theorem State.decodePacket_encoded {s : State} (hn : s.nopt.toNat ≤ 10)
    (hl : 4 * (5 + s.nopt.toNat) + s.plen.toNat ≤ 65535) :
    ∃ bs, s.encoded = .ok bs ∧ decodePacket bs =
      .ok { s.headerValue with fields := { s.hdr with
              ihl := BitVec.ofNat 4 (5 + s.nopt.toNat)
              totalLength := BitVec.ofNat 16 (4 * (5 + s.nopt.toNat) + s.plen.toNat) } } := by
  refine ⟨_, ifEncodable_ok (encodeError?_eq_none_iff.mpr ⟨hn, hl⟩) _, ?_⟩
  have options_eq : s.options.length = s.nopt.toNat := by rw [options_length]; omega
  have decoded := decodePacket_headerBytes s.hdr (options := s.options) (payload := s.payload) s.hdr.headerChecksum
    (by omega) (by rw [options_eq, payload_length]; exact hl)
  rw [payload_length, options_eq, totalBytes, headerWords, Nat.mul_comm] at decoded
  exact decoded

/-- Loading a header value with the state's own options and payload changes the scalar registers alone. -/
theorem State.loadHeader_own_lists (s : State) (hn : s.nopt.toNat ≤ 10) (f : Fields) :
    (s.loadHeader { s.headerValue with fields := f }).nopt = s.nopt ∧
    (s.loadHeader { s.headerValue with fields := f }).plen = s.plen ∧
    (s.loadHeader { s.headerValue with fields := f }).opt = s.opt ∧
    ∀ i, (s.loadHeader { s.headerValue with fields := f }).payByte i = s.payByte i := by
  have options_eq : s.options.length = s.nopt.toNat := by rw [options_length]; omega
  refine ⟨?_, ?_, Vector.ext fun k hk => ?_, fun i => ?_⟩
  · simp [headerValue, options_eq]
  · simp [headerValue]
  · simp [headerValue, getElem_writeOptions, State.options]
  · simp [payByte_loadHeader, headerValue, State.payload]

/-- Settles O27: ENCODE puts the packet in the buffer and leaves the header value's registers, and DECODE of that buffer loads
the same lists again, with IHL and TLEN recomputed. -/
theorem encodeThenDecodeRestoresTheRegisters : Obligations.EncodeThenDecodeRestoresTheRegisters := by
  intro s idle hn hl
  obtain ⟨bs, encoded, decoded⟩ := State.decodePacket_encoded hn hl
  let t := (s.issue .encode).respond .ok none
  have encode_done : complete t = (t.storePacket bs).succeed :=
    (complete_encode rfl).trans (completeEncode_of_ok encoded)
  let v := ((t.storePacket bs).succeed.issue .decode).respond .ok none
  have buffer_eq : v.buffer = bs := t.buffer_storePacket (State.encoded_length_lt encoded)
  have header_eq : v.headerValue = s.headerValue := rfl
  rw [← buffer_eq, ← header_eq] at decoded
  have decode_done : complete v = _ := (complete_decode rfl).trans (completeDecode_of_ok decoded)
  refine ⟨t, v, issueCommand_idle idle .encode, encode_done ▸ issueCommand_idle (State.succeed_busy _) .decode, ?_⟩
  rw [decode_done]
  obtain ⟨nopt_kept, plen_kept, opt_kept, pay_kept⟩ := v.loadHeader_own_lists hn _
  exact ⟨rfl, nopt_kept, plen_kept, opt_kept, pay_kept, rfl, rfl, rfl⟩

end Sys2Proof.Machine

/-! What a host access does to the block, instruction by instruction, said once (O16); a step (O4); that the completion does not
depend on the host's traffic before it (O43) and gives the same again when repeated (O42). -/

namespace Sys2Proof.Machine

/-! ## What a host access performs -/

/-- The effects of an access on the block, the bus's answer apart: nothing at all, or, only in an idle block, what the
instruction says (44_access R155). Tied to `exec` by `exec_performs`. -/
inductive Performs (s : State) : Instr → State → Prop
  | nothing (i : Instr) : Performs s i s
  | decode (idle : s.busy = false) : Performs s .decode (s.issue .decode)
  | encode (idle : s.busy = false) : Performs s .encode (s.issue .encode)
  | csum (idle : s.busy = false) : Performs s .csum (s.issue .csum)
  | verify (idle : s.busy = false) : Performs s .verify (s.issue .verify)
  | wr {index : BitVec 16} {r : Reg} (data : Word) (idle : s.busy = false) (named : regAt index = some r) :
    Performs s (.wr index data) (writeReg s r data)
  | stb (index : BitVec 16) (data : Word) (idle : s.busy = false) :
    Performs s (.stb index data) (s.writeBuf index.toNat (data.setWidth 8))
  | stp (index : BitVec 16) (data : Word) (idle : s.busy = false) :
    Performs s (.stp index data) (s.writePay index.toNat (data.setWidth 8))

/-- The busy interlock lets reads of STATUS through and nothing else (44_access R155). -/
theorem idle_of_accessCheck_ok {kind : Kind} {index : BitVec 16} {data : Word} {busy : Bool}
    (h : accessCheck kind index data busy = .ok) (hk : kind ≠ .rd) : busy = false := by
  obtain ⟨-, interlock, -⟩ := accessCheck_eq_ok_iff.mp h
  exact Bool.eq_false_iff.mpr fun hb => hk (interlock hb).1

/-- The common procedure performs what it is given or nothing, and answers. -/
theorem hostAccess_performs {kind : Kind} {index : BitVec 16} {data : Word} {perform : State → State × Option Word}
    {s : State} {i : Instr} (h : accessCheck kind index data s.busy = .ok → Performs s i (perform s).1) :
    ∃ u r w, hostAccess kind index data perform s = .next (u.respond r w) ∧ Performs s i u := by
  obtain ⟨accepted, e⟩ | ⟨-, e⟩ := hostAccess_cases kind index data perform s
  · exact ⟨_, _, _, e, h accepted⟩
  · exact ⟨s, _, _, e, .nothing i⟩

/-- Every access is answered, and has one of the effects listed in `Performs`. -/
theorem exec_performs (i : Instr) (s : State) :
    ∃ u r data, exec i s = .next (u.respond r data) ∧ Performs s i u := by
  cases i <;> simp only [exec, execDecode, execEncode, execCsum, execVerify, execRd, execWr, execLdb, execStb, execLdp,
    execStp, execReserved, issueCommand] <;> refine hostAccess_performs fun ok => ?_
  case rd | ldb | ldp | reserved => exact .nothing _
  all_goals have idle := idle_of_accessCheck_ok ok (by decide)
  case decode => exact .decode idle
  case encode => exact .encode idle
  case csum => exact .csum idle
  case verify => exact .verify idle
  case stb index data => exact .stb index data idle
  case stp index data => exact .stp index data idle
  case wr index data =>
    cases named : regAt index with
    | none => exact .nothing _
    | some r => exact .wr data idle named

/-- An access to a busy block changes nothing of it but the bus's answer. -/
theorem exec_busy {s : State} (h : s.busy = true) (i : Instr) : ∃ r data, exec i s = .next (s.respond r data) := by
  obtain ⟨u, r, data, executed, effect⟩ := exec_performs i s
  cases effect with
  | nothing => exact ⟨r, data, executed⟩
  | decode idle | encode idle | csum idle | verify idle | wr _ idle | stb _ _ idle | stp _ _ idle => simp [h] at idle

/-- A register has one number (30_encoding R78). -/
theorem eq_regNumber_of_regAt {index : BitVec 16} {r : Reg} (h : regAt index = some r) : index = regNumber r := by
  unfold regAt at h
  split at h <;> cases h <;> exact BitVec.eq_of_toNat_eq ‹_›

/-- What an effect never touches (20_memory R47, 60_exceptions R171). -/
theorem Performs.keeps_results {i : Instr} {s u : State} (h : Performs s i u) :
    u.err = s.err ∧ u.result = s.result ∧ u.ereq = s.ereq ∧ u.eact = s.eact ∧ u.pending = s.pending ∧
      u.epoch = s.epoch ∧ u.copy = s.copy := by
  cases h with
  | wr data idle named => cases ‹Reg› <;> simp [writeReg]
  | _ => simp

/-- Only a command, or another write to CMD, touches BUSY, DONE and LOP (44_access R149). -/
theorem Performs.keeps_engine {i : Instr} {s u : State} (h : Performs s i u) :
    u.busy = s.busy ∧ u.done = s.done ∧ u.lop = s.lop ∨
      i = .decode ∨ i = .encode ∨ i = .csum ∨ i = .verify ∨ ∃ v : Word, i = .wr 32#16 v := by
  cases h with
  | nothing | stb | stp => exact .inl ⟨rfl, rfl, rfl⟩
  | decode | encode | csum | verify => simp
  | @wr index r data idle named =>
    cases r with
    | cmd => simp [eq_regNumber_of_regAt named, regNumber]
    | _ => exact .inl ⟨rfl, rfl, rfl⟩

/-- A read has no effect (20_memory R47). -/
theorem Performs.read {i : Instr} {s u : State} (h : Performs s i u) {index : BitVec 16}
    (hi : i = .rd index ∨ i = .ldb index ∨ i = .ldp index) : u = s := by
  obtain rfl | rfl | rfl := hi <;> cases h <;> rfl

/-- Settles O16: each clause is one of what the possible effects keep. -/
theorem accessesLeaveResultsAlone : Obligations.AccessesLeaveResultsAlone := by
  intro i s t h
  obtain ⟨u, r, data, executed, effect⟩ := exec_performs i s
  cases executed.symm.trans h
  refine ⟨effect.keeps_results, effect.keeps_engine, fun index hi => ?_⟩
  rw [effect.read hi]
  rfl

/-! ## One step -/

/-- Presenting a descriptor and taking it again leaves the state as it was. -/
theorem State.takeEvent_placeAccess (s : State) (d : Descriptor) : (s.placeAccess d).takeEvent s.pending = s := by
  have delay_eq : ((s.placeAccess d).takeEvent s.pending).delay = s.delay := by cases hb : s.busy <;> simp [hb]
  calc (s.placeAccess d).takeEvent s.pending
    _ = { s with delay := ((s.placeAccess d).takeEvent s.pending).delay } := rfl
    _ = s := by rw [delay_eq]

/-- A descriptor just presented is answered before the completion. -/
theorem State.engineTurn_placeAccess (s : State) (d : Descriptor) : (s.placeAccess d).engineTurn = false := by
  cases hb : s.busy <;> simp [engineTurn, placeAccess, hb]

theorem step_placeAccess (s : State) (d : Descriptor) : step (s.placeAccess d) = exec (decodeDescriptor d) s := by
  rw [step_access (s.engineTurn_placeAccess d) (s.placeAccess_pending d), State.takeEvent_placeAccess]

/-- The instruction of a table word is that of its descriptor. -/
theorem decodeTableWord_eq_some {nbits w : Nat} {i : Instr} (h : decodeTableWord nbits w = some i) :
    ∃ d, descriptorOfWord nbits w = .ok d ∧ decodeDescriptor d = i := by
  unfold decodeTableWord at h
  cases hd : descriptorOfWord nbits w with
  | error e => simp [hd] at h
  | ok d => exact ⟨d, rfl, by simpa [hd] using h⟩

/-- Settles O4: the turn decides between the completion and the host's event. -/
theorem stepRunsTheDecodedAccess : Obligations.StepRunsTheDecodedAccess := by
  refine ⟨fun s busy turn => step_engine ?_, fun s d rest early next => ?_, fun s idle none_left => ?_,
    fun s nbits w i decoded => ?_⟩
  · simpa [State.engineTurn, busy] using turn
  · exact step_access (by simpa [State.engineTurn, next] using early) next
  · exact step_idle (by simp [State.engineTurn, idle]) none_left
  · obtain ⟨d, word_eq, rfl⟩ := decodeTableWord_eq_some decoded
    rw [State.withFetchWord, word_eq]
    exact step_placeAccess s d

/-! ## The completion and the host's traffic before it -/

/-- A completion ends in an error or in success, and LOP stays the completed command's (log entry 3). -/
theorem complete_ends (s : State) :
    ∃ u : State, u.lop = s.lop ∧ ((∃ e, complete s = u.raise e) ∨ complete s = u.succeed) := by
  cases hl : s.lop with
  | decode =>
    rw [complete_decode hl]
    obtain ⟨e, -, hc⟩ | ⟨H, -, hc⟩ := completeDecode_cases s
    · exact ⟨s, hl, .inl ⟨e, hc⟩⟩
    · exact ⟨s.loadHeader H, hl, .inr hc⟩
  | encode =>
    rw [complete_encode hl]
    obtain ⟨e, -, hc⟩ | ⟨bs, -, hc⟩ := completeEncode_cases s
    · exact ⟨s, hl, .inl ⟨e, hc⟩⟩
    · exact ⟨s.storePacket bs, hl, .inr hc⟩
  | csum =>
    rw [complete_csum hl]
    obtain ⟨e, -, hc⟩ | ⟨r, -, hc⟩ := completeCsum_cases s
    · exact ⟨s, hl, .inl ⟨e, hc⟩⟩
    · exact ⟨s.setResult r, hl, .inr hc⟩
  | verify => exact ⟨s.setResult (if s.verified then 1 else 0), hl, .inr (complete_verify hl)⟩

@[simp] theorem complete_lop (s : State) : (complete s).lop = s.lop := by
  obtain ⟨u, lop_eq, ⟨e, hc⟩ | hc⟩ := complete_ends s <;> simp [hc, lop_eq]

@[simp] theorem complete_done (s : State) : (complete s).done = true := by
  obtain ⟨u, -, ⟨e, hc⟩ | hc⟩ := complete_ends s <;> simp [hc]

/-- The state with other traffic on the host's side: the events to come, the last answer and the delay, all three the model's
own (log entries 1, 4 and 5). -/
def State.withTraffic (s : State) (events : List HostEvent) (answer : Option Answer) (delay : Nat) : State :=
  { s with pending := events, answer := answer, delay := delay }

@[simp] theorem State.withTraffic_busy (s : State) (events : List HostEvent) (answer : Option Answer) (delay : Nat) :
    (s.withTraffic events answer delay).busy = s.busy := rfl

@[simp] theorem State.withTraffic_done (s : State) (events : List HostEvent) (answer : Option Answer) (delay : Nat) :
    (s.withTraffic events answer delay).done = s.done := rfl

/-- The completion neither reads nor writes the host events to come and the last answer, and does not read the delay
(20_memory R46, 70_reset_and_hazards R198). -/
theorem complete_withTraffic (s : State) (events : List HostEvent) (answer : Option Answer) (delay : Nat) :
    complete (s.withTraffic events answer delay) = (complete s).withTraffic events answer 0 := by
  cases hl : s.lop with
  | decode =>
    rw [complete_decode hl, complete_decode (s := s.withTraffic events answer delay) hl]
    obtain ⟨e, he, hc⟩ | ⟨H, hH, hc⟩ := completeDecode_cases s <;> rw [hc]
    · exact completeDecode_of_error he
    · exact completeDecode_of_ok hH
  | encode =>
    rw [complete_encode hl, complete_encode (s := s.withTraffic events answer delay) hl]
    obtain ⟨e, he, hc⟩ | ⟨bs, hbs, hc⟩ := completeEncode_cases s <;> rw [hc]
    · exact completeEncode_of_error he
    · exact completeEncode_of_ok hbs
  | csum =>
    rw [complete_csum hl, complete_csum (s := s.withTraffic events answer delay) hl]
    obtain ⟨e, he, hc⟩ | ⟨r, hr, hc⟩ := completeCsum_cases s <;> rw [hc]
    · exact completeCsum_of_error he
    · exact completeCsum_of_ok hr
  | verify =>
    rw [complete_verify hl, complete_verify (s := s.withTraffic events answer delay) hl]
    rfl

/-- A completion leaves the traffic there was, and no delay. -/
theorem complete_own_traffic (s : State) : (complete s).withTraffic s.pending s.answer 0 = complete s :=
  (complete_withTraffic s s.pending s.answer s.delay).symm

/-- While a command is in flight and its delay has not passed, an access is taken from those to come, the completion comes one
event nearer, and nothing else of the block changes (70_reset_and_hazards R195). -/
theorem step_busy_access {s : State} {d : Descriptor} {rest : List HostEvent} {n : Nat} (busy : s.busy = true)
    (delay : s.delay = n + 1) (next : s.pending = .access d :: rest) :
    ∃ answer, step s = .next (s.withTraffic rest answer n) := by
  obtain ⟨r, data, answered⟩ := exec_busy (s := s.takeEvent rest) busy (decodeDescriptor d)
  refine ⟨some ⟨r, data⟩, ?_⟩
  rw [step_access (by simp [State.engineTurn, delay, next]) next, answered]
  simp [State.respond, State.takeEvent, State.withTraffic, busy, delay]

theorem runSteps_succ {s t : State} (h : step s = .next t) (n : Nat) : runSteps (n + 1) s = runSteps n t := by
  rw [runSteps, h]

/-- The engine's turn brings the completion at once. -/
theorem runSteps_one_of_engineTurn {s : State} (turn : s.engineTurn = true) :
    runSteps 1 s = some ((complete s).withTraffic s.pending s.answer 0) := by
  rw [runSteps_succ (step_engine turn), runSteps, complete_own_traffic]

/-- The completion comes when the delay has passed or the host has no event left. By induction on the events to come: each but
a reset leaves the completion what it was and the delay one less. -/
theorem runSteps_completes {s : State} (busy : s.busy = true) (no_reset : ∀ e ∈ s.pending, e ≠ .reset) :
    ∃ events answer,
      runSteps (min s.delay s.pending.length + 1) s = some ((complete s).withTraffic events answer 0) := by
  induction events : s.pending generalizing s with
  | nil =>
    rw [List.length_nil, Nat.min_zero]
    exact ⟨_, _, runSteps_one_of_engineTurn (by simp [State.engineTurn, busy, events])⟩
  | cons event rest ih =>
    cases delay : s.delay with
    | zero =>
      rw [Nat.zero_min]
      exact ⟨_, _, runSteps_one_of_engineTurn (by simp [State.engineTurn, busy, delay])⟩
    | succ n =>
      rw [events] at no_reset
      cases event with
      | reset => exact absurd rfl (no_reset _ List.mem_cons_self)
      | access d =>
        obtain ⟨answer, stepped⟩ := step_busy_access busy delay events
        obtain ⟨events', answer', ran⟩ := ih (s := s.withTraffic rest answer n) busy
          (fun e he => no_reset e (List.mem_cons_of_mem _ he)) rfl
        refine ⟨events', answer', ?_⟩
        rw [List.length_cons, Nat.add_min_add_right, runSteps_succ stepped]
        rw [complete_withTraffic] at ran
        exact ran

/-- Settles O43: what the run reaches is the completion but for the host's traffic, which the statement sets aside. -/
theorem latencyNeverChangesAResult : Obligations.LatencyNeverChangesAResult := by
  intro s busy no_reset
  obtain ⟨events, answer, ran⟩ := runSteps_completes busy no_reset
  exact ⟨_, ran, complete_busy s, complete_done s, complete_own_traffic s⟩

/-! ## Completing again -/

/-- In canonical form no cell below the first is listed. -/
theorem Memory.read?_below {b a : Nat} {w : Byte} {m : Memory} (h : Memory.wf ((b, w) :: m) = true) (hab : a < b) :
    Memory.read? ((b, w) :: m) a = none := by
  induction m generalizing b w with
  | nil => simp [Memory.read?_cons, hab.ne]
  | cons cell m ih =>
    obtain ⟨c, x⟩ := cell
    rw [Memory.wf_cons_cons, Bool.and_eq_true, decide_eq_true_eq] at h
    rw [Memory.read?_cons, if_neg hab.ne, ih h.2 (hab.trans h.1)]

/-- Writing the byte a listed cell holds changes nothing of a memory in canonical form. -/
theorem Memory.write_of_read? {m : Memory} (h : m.wf = true) {a : Nat} {v : Byte} (hr : m.read? a = some v) :
    m.write a v = m := by
  induction m with
  | nil => simp at hr
  | cons cell m ih =>
    obtain ⟨b, w⟩ := cell
    have not_below : ¬ a < b := fun hab => by simp [Memory.read?_below h hab] at hr
    rw [Memory.read?_cons] at hr
    rw [Memory.write_cons, if_neg not_below]
    split at hr
    · rw [if_pos ‹_›, Option.some.inj hr, ‹a = b›]
    · rw [if_neg ‹_›, ih (Memory.wf_tail h) hr]

/-- Writing consecutive bytes that are there changes nothing of a memory in canonical form. -/
theorem Memory.writeBytes_of_read? (bs : List Byte) {m : Memory} (h : m.wf = true) {a : Nat}
    (hr : ∀ (k : Nat) (hk : k < bs.length), m.read? (a + k) = some bs[k]) : m.writeBytes a bs = m := by
  induction bs generalizing a with
  | nil => rfl
  | cons v bs ih =>
    rw [Memory.writeBytes, Memory.write_of_read? h (a := a) (v := v) (hr 0 (Nat.zero_lt_succ _))]
    refine ih fun k hk => ?_
    rw [Nat.add_assoc, Nat.add_comm 1]
    exact hr (k + 1) (Nat.succ_lt_succ hk)

/-- Writing the same bytes to the same cells again changes nothing. -/
theorem Memory.writeBytes_writeBytes {m : Memory} (h : m.wf = true) (a : Nat) (bs : List Byte) :
    (m.writeBytes a bs).writeBytes a bs = m.writeBytes a bs :=
  Memory.writeBytes_of_read? bs (Memory.wf_writeBytes bs h a) fun k hk => by simp [Memory.read?_writeBytes, hk]

theorem writeOptions_writeOptions (opt : Vector Word 10) (ws : List Word) :
    writeOptions (writeOptions opt ws) ws = writeOptions opt ws := by
  ext k hk
  rw [getElem_writeOptions, getElem_writeOptions]
  split <;> rfl

/-- Loading the header value again changes nothing (20_memory R47). -/
theorem State.succeed_loadHeader_again {s : State} (h : s.pay.wf = true) (H : HeaderValue) :
    ((s.loadHeader H).succeed.loadHeader H).succeed = (s.loadHeader H).succeed := by
  simp [loadHeader, succeed, writeOptions_writeOptions, Memory.writeBytes_writeBytes h]

/-- Storing the packet again changes nothing (20_memory R47). -/
theorem State.succeed_storePacket_again {s : State} (h : s.buf.wf = true) (bs : List Byte) :
    ((s.storePacket bs).succeed.storePacket bs).succeed = (s.storePacket bs).succeed := by
  simp [storePacket, succeed, Memory.writeBytes_writeBytes h]

/-- DECODE again finds the same buffer (41_decode R91). -/
theorem completeDecode_again {s : State} (h : s.pay.wf = true) : completeDecode (completeDecode s) = completeDecode s := by
  obtain ⟨e, he, hc⟩ | ⟨H, hH, hc⟩ := completeDecode_cases s <;> rw [hc]
  · exact completeDecode_of_error (s := s.raise e) he
  · rw [completeDecode_of_ok (s := (s.loadHeader H).succeed) hH, State.succeed_loadHeader_again h]

/-- ENCODE again finds the same header value (42_encode R111). -/
theorem completeEncode_again {s : State} (h : s.buf.wf = true) : completeEncode (completeEncode s) = completeEncode s := by
  obtain ⟨e, he, hc⟩ | ⟨bs, hbs, hc⟩ := completeEncode_cases s <;> rw [hc]
  · exact completeEncode_of_error (s := s.raise e) he
  · rw [completeEncode_of_ok (s := (s.storePacket bs).succeed) hbs, State.succeed_storePacket_again h]

/-- CSUM again finds the same header value (43_checksum R129). -/
theorem completeCsum_again (s : State) : completeCsum (completeCsum s) = completeCsum s := by
  obtain ⟨e, he, hc⟩ | ⟨r, hr, hc⟩ := completeCsum_cases s <;> rw [hc]
  · exact completeCsum_of_error (s := s.raise e) he
  · exact completeCsum_of_ok (s := (s.setResult r).succeed) hr

/-- Settles O42: LOP still selects the command, and each command leaves its own inputs as they were. -/
theorem repeatedCommandGivesTheSame : Obligations.RepeatedCommandGivesTheSame := by
  intro s inv
  have lop_kept := complete_lop s
  cases hl : s.lop with
  | decode => rw [complete_decode (lop_kept.trans hl), complete_decode hl, completeDecode_again inv.payWf]
  | encode => rw [complete_encode (lop_kept.trans hl), complete_encode hl, completeEncode_again inv.bufWf]
  | csum => rw [complete_csum (lop_kept.trans hl), complete_csum hl, completeCsum_again]
  | verify =>
    rw [complete_verify (lop_kept.trans hl), complete_verify hl]
    rfl

end Sys2Proof.Machine

/-! The decoder and the encoder undo each other as far as the table keeps a field (O1, O2, O3); reserved kinds (O15); every
step answers a next state (O5). -/

namespace Sys2Proof.Machine

/-! ## The decoder, kind by kind (30_encoding R75 to R77) -/

section
variable {d : Descriptor}

theorem decodeDescriptor_rd (h : kindField d = 0#3) : decodeDescriptor d = .rd (indexField d) := by
  simp [decodeDescriptor, h]

theorem decodeDescriptor_write (h : kindField d = 1#3) : decodeDescriptor d = decodeWrite (indexField d) (dataField d) := by
  simp [decodeDescriptor, h]

theorem decodeDescriptor_ldb (h : kindField d = 2#3) : decodeDescriptor d = .ldb (indexField d) := by
  simp [decodeDescriptor, h]

theorem decodeDescriptor_stb (h : kindField d = 3#3) : decodeDescriptor d = .stb (indexField d) (dataField d) := by
  simp [decodeDescriptor, h]

theorem decodeDescriptor_ldp (h : kindField d = 4#3) : decodeDescriptor d = .ldp (indexField d) := by
  simp [decodeDescriptor, h]

theorem decodeDescriptor_stp (h : kindField d = 5#3) : decodeDescriptor d = .stp (indexField d) (dataField d) := by
  simp [decodeDescriptor, h]

theorem decodeDescriptor_reserved (h : kindField d = 6#3 ∨ kindField d = 7#3) :
    decodeDescriptor d = .reserved (kindField d) := by
  obtain h | h := h <;> simp [decodeDescriptor, h]

end

/-- The eight values of the kind field. -/
theorem kindField_cases (d : Descriptor) :
    kindField d = 0#3 ∨ kindField d = 1#3 ∨ kindField d = 2#3 ∨ kindField d = 3#3 ∨ kindField d = 4#3 ∨
      kindField d = 5#3 ∨ (kindField d = 6#3 ∨ kindField d = 7#3) := by
  generalize kindField d = k
  revert k
  decide

/-! ## Kind 1: the command rows and the WR row -/

/-- The data of the four command rows (30_encoding R76). -/
theorem toNat_lt_four_iff {data : Word} :
    data.toNat < 4 ↔ data = 0#32 ∨ data = 1#32 ∨ data = 2#32 ∨ data = 3#32 := by
  simp only [← BitVec.toNat_inj, BitVec.toNat_ofNat]
  omega

/-- A WR that is no command stands for itself (opcode_table.json, note on WR). -/
theorem wellFormed_wr_iff {index : BitVec 16} {data : Word} :
    (Instr.wr index data).wellFormed = true ↔
      (index = 32#16 → ¬ (data = 0#32 ∨ data = 1#32 ∨ data = 2#32 ∨ data = 3#32)) := by
  rw [← toNat_lt_four_iff]
  simp only [Instr.wellFormed, Bool.not_eq_true', Bool.and_eq_false_iff, beq_eq_false_iff_ne, decide_eq_false_iff_not,
    imp_iff_not_or]

theorem decodeWrite_of_wellFormed {index : BitVec 16} {data : Word} (h : (Instr.wr index data).wellFormed = true) :
    decodeWrite index data = .wr index data := by
  by_cases cmd : index = 32#16
  · have no_op_code := wellFormed_wr_iff.mp h cmd
    simp only [not_or] at no_op_code
    simp [decodeWrite, no_op_code]
  · simp [decodeWrite, cmd]

theorem wellFormed_wr_or_command (index : BitVec 16) (data : Word) :
    (Instr.wr index data).wellFormed = true ∨
      index = 32#16 ∧ (data = 0#32 ∨ data = 1#32 ∨ data = 2#32 ∨ data = 3#32) := by
  rw [wellFormed_wr_iff]
  tauto

theorem wellFormed_decodeWrite (index : BitVec 16) (data : Word) : (decodeWrite index data).wellFormed = true := by
  obtain wf | ⟨rfl, rfl | rfl | rfl | rfl⟩ := wellFormed_wr_or_command index data
  · rwa [decodeWrite_of_wellFormed wf]
  all_goals rfl

theorem encodeDescriptor_decodeWrite (index : BitVec 16) (data : Word) :
    encodeDescriptor (decodeWrite index data) = packDescriptor 1#3 index data := by
  obtain wf | ⟨rfl, rfl | rfl | rfl | rfl⟩ := wellFormed_wr_or_command index data
  · rw [decodeWrite_of_wellFormed wf, encodeDescriptor]
  all_goals rfl

/-! ## There and back -/

/-- Settles O1: each word's fields are read off it. -/
theorem tableWordsDecode : Obligations.TableWordsDecode := by
  unfold Obligations.TableWordsDecode
  decide

/-- Settles O2: the three fields of the packed descriptor are read back, and a well-formed WR is no command row. -/
theorem decodeOfEncodeIsIdentity : Obligations.DecodeOfEncodeIsIdentity := by
  intro i wf
  cases i with
  | decode | encode | csum | verify => decide
  | rd index => simp [encodeDescriptor, decodeDescriptor_rd]
  | wr index data => simp [encodeDescriptor, decodeDescriptor_write, decodeWrite_of_wellFormed wf]
  | ldb index => simp [encodeDescriptor, decodeDescriptor_ldb]
  | stb index data => simp [encodeDescriptor, decodeDescriptor_stb]
  | ldp index => simp [encodeDescriptor, decodeDescriptor_ldp]
  | stp index data => simp [encodeDescriptor, decodeDescriptor_stp]
  | reserved kind =>
    have is_reserved : kind = 6#3 ∨ kind = 7#3 := by simpa [Instr.wellFormed] using wf
    simp [encodeDescriptor, decodeDescriptor_reserved, is_reserved]

/-- Settles O3: kind by kind, the encoder packs the fields that the decoder kept. -/
theorem decodedDescriptorKeepsItsFields : Obligations.DecodedDescriptorKeepsItsFields := by
  intro d
  obtain h | h | h | h | h | h | h := kindField_cases d
  · simp [decodeDescriptor_rd h, encodeDescriptor, Instr.wellFormed, h]
  · simp [decodeDescriptor_write h, encodeDescriptor_decodeWrite, wellFormed_decodeWrite, h]
  · simp [decodeDescriptor_ldb h, encodeDescriptor, Instr.wellFormed, h]
  · simp [decodeDescriptor_stb h, encodeDescriptor, Instr.wellFormed, h]
  · simp [decodeDescriptor_ldp h, encodeDescriptor, Instr.wellFormed, h]
  · simp [decodeDescriptor_stp h, encodeDescriptor, Instr.wellFormed, h]
  · rw [decodeDescriptor_reserved h]
    obtain h | h := h <;> simp [encodeDescriptor, Instr.wellFormed, h]

/-! ## Reserved kinds, and every step -/

/-- Settles O15: nothing exists at a reserved kind, which is checked before anything else (44_access R155). -/
theorem reservedKindsChangeNothing : Obligations.ReservedKindsChangeNothing := by
  intro k s
  have bad_reg : accessCheck .reserved 0#16 0#32 s.busy = .badReg := accessCheck_eq_badReg rfl _ _
  rw [exec, execReserved, hostAccess_refused (by simp [bad_reg]), bad_reg]
  rfl

/-- Settles O5: a step is the completion, nothing, a reset, or an access, which is always answered. -/
theorem everyStepAnswersNext : Obligations.EveryStepAnswersNext := by
  intro s
  cases turn : s.engineTurn with
  | true => exact ⟨_, step_engine turn⟩
  | false =>
    match pending : s.pending with
    | [] => exact ⟨_, step_idle turn pending⟩
    | .reset :: _ => exact ⟨_, step_reset turn pending⟩
    | .access d :: rest =>
      obtain ⟨u, r, data, answered, -⟩ := exec_performs (decodeDescriptor d) (s.takeEvent rest)
      exact ⟨_, (step_access turn pending).trans answered⟩

end Sys2Proof.Machine

/-! A host's RD STATUS, WAIT (O49) and SETCSUM (O50), each access of which is an `ask` of the block. -/

namespace Sys2Proof.Machine

/-! ## What the host reads off STATUS -/

/-- Bit 0 of STATUS is BUSY (10_state R18). -/
theorem State.statusWord_busy (s : State) : s.statusWord.getLsbD 0 = s.busy := by
  have busy_le := s.busy.toNat_le
  have low_bit : (s.busy.toNat + 2 * s.done.toNat + 4 * s.err.toNat) % 2 = s.busy.toNat := by omega
  rw [BitVec.getLsbD, s.statusWord_toNat, Nat.testBit_zero, low_bit]
  simp

/-- Bits 4:2 of STATUS are ERR (10_state R18). -/
theorem State.statusWord_err (s : State) : s.statusWord.extractLsb' 2 3 = s.err := by
  apply BitVec.eq_of_toNat_eq
  have busy_le := s.busy.toNat_le
  have done_le := s.done.toNat_le
  have err_lt := s.err.isLt
  rw [BitVec.extractLsb'_toNat, s.statusWord_toNat, Nat.shiftRight_eq_div_pow]
  omega

/-- The answer to an RD STATUS in state `s`. -/
def State.statusAnswer (s : State) : Option Answer := some ⟨.ok, some s.statusWord⟩

/-- What the host reads of that answer is STATUS. -/
@[simp] theorem State.readData_statusAnswer (s t : State) (events : List HostEvent) (delay : Nat) :
    (s.withTraffic events t.statusAnswer delay).readData = t.statusWord := rfl

@[simp] theorem State.withTraffic_err (s : State) (events : List HostEvent) (answer : Option Answer) (delay : Nat) :
    (s.withTraffic events answer delay).err = s.err := rfl

/-! ## One access of a host -/

/-- An access answered A_OK hands its state on. -/
theorem askThen_of_ok {i : Instr} {s t : State} {data : Option Word} (asked : ask i s = .next t)
    (ok : t.answer = some ⟨.ok, data⟩) (k : State → Host.Outcome HostEnd Fault Refusal) : askThen i k s = k t := by
  simp [askThen, asked, State.accepted, ok]

/-- RD STATUS of an idle block. -/
theorem ask_status_idle {s : State} (idle : s.busy = false) :
    ask (.rd 33#16) s = .next (s.withTraffic [] s.statusAnswer s.delay) := by
  rw [ask_idle idle (decodeOfEncodeIsIdentity _ rfl), exec_rd_ok (accessCheck_rd_status _)]
  rfl

/-- RD STATUS after the completion of the command in flight. -/
theorem ask_status_after_completion {s : State} (busy : s.busy = true) (now : s.delay = 0) :
    ask (.rd 33#16) s = .next ((complete s).withTraffic [] (complete s).statusAnswer 0) := by
  have completed : complete (s.loadProgram [.rd 33#16]) = (complete s).withTraffic _ s.answer 0 :=
    complete_withTraffic s [.access (encodeDescriptor (.rd 33#16))] s.answer s.delay
  rw [ask_after_completion busy now (decodeOfEncodeIsIdentity _ rfl), exec_rd_ok (accessCheck_rd_status _), completed]
  rfl

/-- RD STATUS before the completion of the command in flight, which comes one event nearer. -/
theorem ask_status_before_completion {s : State} (busy : s.busy = true) {n : Nat} (later : s.delay = n + 1) :
    ask (.rd 33#16) s = .next (s.withTraffic [] s.statusAnswer n) := by
  rw [ask_before_completion busy later (decodeOfEncodeIsIdentity _ rfl), exec_rd_ok (accessCheck_rd_status _)]
  rfl

/-! ## WAIT -/

section
variable {s t : State} (k : State → Host.Outcome HostEnd Fault Refusal)

/-- One poll: BUSY of the state read from decides whether another follows. -/
theorem pollThen_succ (polls : Nat) {events : List HostEvent} {delay : Nat}
    (asked : ask (.rd 33#16) s = .next (t.withTraffic events t.statusAnswer delay)) :
    pollThen (polls + 1) k s =
      if t.busy then pollThen polls k (t.withTraffic events t.statusAnswer delay)
      else k (t.withTraffic events t.statusAnswer delay) := by
  rw [pollThen, askThen_of_ok asked rfl, State.readData_statusAnswer, t.statusWord_busy]

/-- Polling a busy block hands on the completion, by induction on the delay: a poll before the completion leaves it what it
was and the delay one less (70_reset_and_hazards R198, R199). -/
theorem pollThen_busy (busy : s.busy = true) {n : Nat} (delay : s.delay = n) :
    pollThen (n + 1) k s = k ((complete s).withTraffic [] (complete s).statusAnswer 0) := by
  induction n generalizing s with
  | zero => simp [pollThen_succ k 0 (ask_status_after_completion busy delay)]
  | succ n ih =>
    rw [pollThen_succ k _ (ask_status_before_completion busy delay), if_pos busy,
      ih (s := s.withTraffic [] s.statusAnswer n) busy rfl, complete_withTraffic]
    rfl

theorem hostAct_wait_idle (idle : s.busy = false) :
    hostAct .wait k s = k (s.withTraffic [] s.statusAnswer s.delay) := by
  simp [hostAct, pollThen_succ k _ (ask_status_idle idle), idle]

theorem hostAct_wait_busy (busy : s.busy = true) :
    hostAct .wait k s = k ((complete s).withTraffic [] (complete s).statusAnswer 0) := pollThen_busy k busy rfl

end

/-- Settles O49: a busy block is polled until its completion, an idle one is read once. -/
theorem waitEndsWithTheCompletion : Obligations.WaitEndsWithTheCompletion := by
  intro s k
  cases busy : s.busy with
  | true => exact ⟨_, hostAct_wait_busy k busy, complete_busy s, rfl, complete_own_traffic s⟩
  | false => exact ⟨_, hostAct_wait_idle k busy, busy, rfl, rfl⟩

/-! ## SETCSUM -/

/-- `ifEncodable` decides before its result is looked at. -/
theorem ifEncodable_map {α β : Type} (n p : Nat) (x : α) (f : α → β) :
    (ifEncodable n p x).map f = ifEncodable n p (f x) := by
  unfold ifEncodable
  cases encodeError? n p <;> rfl

/-- The block's checksum is ComputeChecksum of its header value, where it stands for one (43_checksum R129). -/
theorem State.computeChecksum_headerValue {s : State} (hn : s.nopt.toNat ≤ 10) :
    computeChecksum s.headerValue = s.checksum := by
  have options_eq : s.headerValue.options.length = s.nopt.toNat := by
    rw [headerValue, options_length, Nat.min_eq_left hn]
  have payload_eq : s.headerValue.payload.length = s.plen.toNat := s.payload_length
  rw [computeChecksum, headerBytes0, ifEncodable_map, options_eq, payload_eq]
  rfl

/-- The state in which a host's CSUM has been answered. -/
def State.csumIssued (s : State) : State := ((s.withTraffic [] s.answer s.delay).issue .csum).respond .ok none

/-- CSUM and WAIT hand on the completion of CSUM. -/
theorem runHost_setCsum {s : State} (idle : s.busy = false) :
    runHost setCsum s = runHost [.stopOnError, .resultToHcsum]
      ((completeCsum s.csumIssued).withTraffic [] (completeCsum s.csumIssued).statusAnswer 0) := by
  have asked : ask .csum s = .next s.csumIssued := by
    rw [ask_idle idle (decodeOfEncodeIsIdentity _ rfl)]
    exact issueCommand_idle (s := s.withTraffic [] s.answer s.delay) idle .csum
  calc runHost setCsum s
    _ = runHost [.wait, .stopOnError, .resultToHcsum] s.csumIssued := askThen_of_ok asked rfl _
    _ = _ := hostAct_wait_busy _ rfl

section
variable {s : State}

/-- The host stops when the ERR it reads is not 0 (30_encoding R80). -/
theorem runHost_stopOnError (idle : s.busy = false) (rest : List HostAction) :
    runHost (.stopOnError :: rest) s =
      if s.err = 0#3 then runHost rest (s.withTraffic [] s.statusAnswer s.delay)
      else .next (.stopped (s.withTraffic [] s.statusAnswer s.delay)) := by
  rw [runHost, hostAct, askThen_of_ok (ask_status_idle idle) rfl, State.readData_statusAnswer, s.statusWord_err]

/-- RD RESULT of an idle block. -/
theorem ask_result_idle (idle : s.busy = false) :
    ask (.rd 34#16) s = .next (s.withTraffic [] (some ⟨.ok, some (s.result.setWidth 32)⟩) s.delay) := by
  have accepted : accessCheck .rd 34#16 0#32 s.busy = .ok := accessCheck_eq_ok_iff.mpr ⟨by decide, by simp [idle], rfl⟩
  rw [ask_idle idle (decodeOfEncodeIsIdentity _ rfl)]
  exact exec_rd_ok (s := s.withTraffic [] s.answer s.delay) accepted

/-- A WR that is answered A_OK writes the register and returns no data (44_access R146). -/
theorem exec_wr_ok {index : BitVec 16} {data : Word} {r : Reg} (named : regAt index = some r)
    (h : accessCheck .wr index data s.busy = .ok) :
    exec (.wr index data) s = .next ((writeReg s r data).respond .ok none) := by
  rw [exec, execWr, hostAccess_ok h, named]
  rfl

/-- The state with another checksum stored. -/
def State.withChecksum (s : State) (v : Half) : State := { s with hdr := { s.hdr with headerChecksum := v } }

/-- WR HCSUM of a 16-bit value to an idle block. -/
theorem ask_wr_hcsum_idle (idle : s.busy = false) (v : Half) :
    ask (.wr 10#16 (v.setWidth 32)) s = .next ((s.withChecksum v).withTraffic [] (some ⟨.ok, none⟩) s.delay) := by
  have low_bits : (v.setWidth 32).setWidth 16 = v := BitVec.setWidth_setWidth_of_le v (by decide)
  have fits : (v.setWidth 32).toNat < 2 ^ 16 := by
    rw [BitVec.toNat_setWidth_of_le (by decide)]
    exact v.isLt
  have accepted : accessCheck .wr 10#16 (v.setWidth 32) s.busy = .ok :=
    accessCheck_eq_ok_iff.mpr ⟨by decide, by simp [idle], decide_eq_true fits⟩
  calc ask (.wr 10#16 (v.setWidth 32)) s
    _ = exec (.wr 10#16 (v.setWidth 32)) (s.withTraffic [] s.answer s.delay) :=
      ask_idle idle (decodeOfEncodeIsIdentity _ rfl)
    _ = .next ((s.withChecksum ((v.setWidth 32).setWidth 16)).withTraffic [] (some ⟨.ok, none⟩) s.delay) :=
      exec_wr_ok (r := .hcsum) rfl accepted
    _ = _ := by rw [low_bits]

/-- A program that is over leaves an idle block with no host event to come as it is. -/
theorem runHost_nil_idle (idle : s.busy = false) (none_left : s.pending = []) : runHost [] s = .next (.finished s) := by
  have loaded : s.loadProgram [] = s := by rw [State.loadProgram, List.map_nil, ← none_left]
  rw [runHost, loaded, step_idle (by simp [State.engineTurn, idle]) none_left]

/-- The host's last two accesses copy RESULT to HCSUM (30_encoding R80). -/
theorem runHost_resultToHcsum (idle : s.busy = false) :
    runHost [.resultToHcsum] s =
      .next (.finished ((s.withChecksum s.result).withTraffic [] (some ⟨.ok, none⟩) s.delay)) := by
  let read := s.withTraffic [] (some ⟨.ok, some (s.result.setWidth 32)⟩) s.delay
  calc runHost [.resultToHcsum] s
    _ = askThen (.wr 10#16 (s.result.setWidth 32)) (fun t => runHost [] t) read :=
      askThen_of_ok (ask_result_idle idle) rfl _
    _ = runHost [] ((read.withChecksum s.result).withTraffic [] (some ⟨.ok, none⟩) read.delay) :=
      askThen_of_ok (ask_wr_hcsum_idle (s := read) idle s.result) rfl _
    _ = _ := runHost_nil_idle idle rfl

end

/-- The error of an unencodable pair of lengths (60_exceptions R173). -/
theorem encodeError?_eq_some_of_unencodable {n p : Nat} (h : 10 < n ∨ 65535 < 4 * (5 + n) + p) :
    encodeError? n p = some (if 10 < n then .tooManyOptions else .lenOverflow) := by
  split_ifs with many
  · exact encodeError?_eq_tooManyOptions many
  · exact encodeError?_eq_lenOverflow (by omega) (by omega)

/-- SETCSUM of a block whose checksum can be computed. -/
theorem runHost_setCsum_of_ok {s : State} (idle : s.busy = false) {c : Half} (computed : s.checksum = .ok c) :
    runHost setCsum s = .next (.finished
      (((s.csumIssued.setResult c).succeed.withChecksum c).withTraffic [] (some ⟨.ok, none⟩) 0)) := by
  rw [runHost_setCsum idle, completeCsum_of_ok (s := s.csumIssued) computed, runHost_stopOnError rfl,
    State.withTraffic_err, State.succeed_err, if_pos (show (0 : BitVec 3) = 0#3 from rfl), runHost_resultToHcsum rfl]
  rfl

/-- SETCSUM of a block whose checksum cannot be computed. -/
theorem runHost_setCsum_of_error {s : State} (idle : s.busy = false) {e : CodecError} (refused : s.checksum = .error e) :
    runHost setCsum s = .next (.stopped ((s.csumIssued.raise e).withTraffic [] (s.csumIssued.raise e).statusAnswer 0)) := by
  rw [runHost_setCsum idle, completeCsum_of_error (s := s.csumIssued) refused, runHost_stopOnError rfl,
    State.withTraffic_err, State.raise_err, if_neg (CodecError.code_ne_zero e)]
  rfl

/-- Settles O50: CSUM computes the checksum of the header value, which the host then copies, or ends in the error that the
two lengths decide, which the host then reads. -/
theorem setCsumWritesTheChecksumOrStops : Obligations.SetCsumWritesTheChecksumOrStops := by
  intro s idle
  refine ⟨fun hn hl => ?_, fun unencodable => ?_⟩
  · have computed : s.checksum = .ok _ := ifEncodable_ok (encodeError?_eq_none_iff.mpr ⟨hn, hl⟩) _
    refine ⟨_, _, (State.computeChecksum_headerValue hn).trans computed, runHost_setCsum_of_ok idle computed, ?_⟩
    rw [idle]
    rfl
  · have refused : s.checksum = .error _ := ifEncodable_error (encodeError?_eq_some_of_unencodable unencodable) _
    refine ⟨_, runHost_setCsum_of_error idle refused, ?_⟩
    rw [idle]
    split_ifs <;> rfl

end Sys2Proof.Machine

/-! What Decode returns, said once, and from it: the wire's numbers (O18), well-formed header values and registers (O19), and
DECODE on the machine (O20). -/

namespace Sys2Proof.Machine

/-! ## What Decode returns -/

/-- The header value of a buffer that passes the checks (41_decode R90 steps 6 to 8). Tied to `decodePacket` by
`decodePacket_eq_ok_iff`. -/
def parsedHeader (bs : List Byte) : HeaderValue where
  fields := parseFields bs
  options := (List.range ((parseFields bs).ihl.toNat - 5)).map fun k => wordAt bs (20 + 4 * k)
  payload := bs.drop ((parseFields bs).ihl.toNat * 4)

/-- Decode succeeds exactly when all four checks pass, and then returns what it parsed (41_decode R90). -/
theorem decodePacket_eq_ok_iff {bs : List Byte} {H : HeaderValue} :
    decodePacket bs = .ok H ↔
      (20 ≤ bs.length ∧ (parseFields bs).totalLength.toNat = bs.length ∧ 5 ≤ (parseFields bs).ihl.toNat ∧
        (parseFields bs).ihl.toNat * 4 ≤ bs.length) ∧ parsedHeader bs = H := by
  simp only [decodePacket]
  split_ifs with too_short mismatch ihl_small past_end
  · simp [too_short]
  · simp [mismatch]
  · simp [ihl_small]
  · simp [past_end]
  · rw [Except.ok.injEq]
    exact (and_iff_right (by omega)).symm

/-! ## Fields of the wire as numbers -/

/-- The upper bits of a byte. -/
theorem toNat_extractLsb'_upper (b : Byte) {start width : Nat} (h : start + width = 8) :
    (b.extractLsb' start width).toNat = b.toNat / 2 ^ start := by
  rw [BitVec.extractLsb'_toNat, Nat.shiftRight_eq_div_pow, Nat.mod_eq_of_lt]
  rw [Nat.div_lt_iff_lt_mul (Nat.two_pow_pos start), ← pow_add, Nat.add_comm, h]
  exact b.isLt

/-- The lower bits of a byte. -/
theorem toNat_extractLsb'_lower (b : Byte) (width : Nat) : (b.extractLsb' 0 width).toNat = b.toNat % 2 ^ width := by
  rw [BitVec.extractLsb'_toNat, Nat.shiftRight_zero]

theorem halfAt_toNat (bs : List Byte) (i : Nat) :
    (halfAt bs i).toNat = (byteAt bs i).toNat * 256 + (byteAt bs (i + 1)).toNat := by
  have b0_lt := (byteAt bs i).isLt
  have b1_lt := (byteAt bs (i + 1)).isLt
  rw [halfAt, beHalf, BitVec.toNat_ofNat]
  omega

theorem wordAt_toNat (bs : List Byte) (i : Nat) :
    (wordAt bs i).toNat = (byteAt bs i).toNat * 0x1000000 + (byteAt bs (i + 1)).toNat * 0x10000 +
      (byteAt bs (i + 2)).toNat * 0x100 + (byteAt bs (i + 3)).toNat := by
  have b0_lt := (byteAt bs i).isLt
  have b1_lt := (byteAt bs (i + 1)).isLt
  have b2_lt := (byteAt bs (i + 2)).isLt
  have b3_lt := (byteAt bs (i + 3)).isLt
  rw [wordAt, beWord, BitVec.toNat_ofNat]
  omega

/-- FOFF is the low five bits of byte 6 and byte 7 (30_encoding R65). -/
theorem parseFields_fragmentOffset_toNat (bs : List Byte) :
    (parseFields bs).fragmentOffset.toNat = (byteAt bs 6).toNat % 32 * 256 + (byteAt bs 7).toNat := by
  have b7_lt := (byteAt bs 7).isLt
  rw [parseFields, toNat_extractLsb'_lower, BitVec.toNat_ofNat]
  omega

theorem parseFields_ihl_toNat (bs : List Byte) : (parseFields bs).ihl.toNat = (byteAt bs 0).toNat % 16 :=
  toNat_extractLsb'_lower _ 4

theorem parsedHeader_options_length (bs : List Byte) :
    (parsedHeader bs).options.length = (parseFields bs).ihl.toNat - 5 := by simp [parsedHeader]

/-- The option words start right after the fixed header (30_encoding R69). -/
theorem parsedHeader_option (bs : List Byte) {k : Nat} (hk : k < (parsedHeader bs).options.length) :
    (parsedHeader bs).options[k] = wordAt bs (20 + 4 * k) := by simp [parsedHeader]

/-- Settles O18: what Decode returns is what it parsed, and each reader of the parser is one of the wire's numbers. -/
theorem decodedFieldsAreTheWireFields : Obligations.DecodedFieldsAreTheWireFields := by
  intro bs H decoded
  obtain ⟨-, rfl⟩ := decodePacket_eq_ok_iff.mp decoded
  refine ⟨toNat_extractLsb'_upper _ rfl, parseFields_ihl_toNat bs, toNat_extractLsb'_upper _ rfl,
    toNat_extractLsb'_lower _ 2, halfAt_toNat bs 2, halfAt_toNat bs 4, toNat_extractLsb'_upper _ rfl,
    parseFields_fragmentOffset_toNat bs, rfl, rfl, halfAt_toNat bs 10, wordAt_toNat bs 12, wordAt_toNat bs 16, ?_,
    fun k hk => ?_, ?_⟩
  · rw [parsedHeader_options_length, parseFields_ihl_toNat]
    rfl
  · rw [parsedHeader_option]
    exact wordAt_toNat bs (20 + 4 * k)
  · rw [parsedHeader, parseFields_ihl_toNat]
    rfl

/-! ## Well-formed header values -/

theorem decodePacket_ok_totalLength {bs : List Byte} {H : HeaderValue} (h : decodePacket bs = .ok H) :
    H.fields.totalLength.toNat = bs.length := by
  obtain ⟨⟨-, total_eq, -⟩, rfl⟩ := decodePacket_eq_ok_iff.mp h
  exact total_eq

/-- Each invariant of a header value is one of the checks, or the width of a field (41_decode R92). -/
theorem decodePacket_ok_wf {bs : List Byte} {H : HeaderValue} (h : decodePacket bs = .ok H) : H.WF := by
  obtain ⟨⟨-, total_eq, ihl_ge, header_le⟩, rfl⟩ := decodePacket_eq_ok_iff.mp h
  have ihl_lt := (parseFields bs).ihl.isLt
  have total_lt := (parseFields bs).totalLength.isLt
  have lengths : (parseFields bs).ihl.toNat * 4 + (parsedHeader bs).payload.length = bs.length := by
    rw [parsedHeader, List.length_drop]
    omega
  exact
    { optionsFit := by rw [parsedHeader_options_length]; omega
      ihlTrue := by rw [parsedHeader_options_length]; exact (Nat.add_sub_cancel' ihl_ge).symm
      totalTrue := total_eq.trans lengths.symm
      lengthFits := lengths.trans_le (by omega) }

section
variable {H : HeaderValue} (s : State) (wf : H.WF)
include wf

/-- NOPT can hold the number of options of a well-formed header value (10_state R12). -/
theorem State.loadHeader_nopt_toNat : (s.loadHeader H).nopt.toNat = H.options.length := by
  have options_le := wf.optionsFit
  rw [loadHeader_nopt, BitVec.toNat_ofNat, Nat.mod_eq_of_lt (by omega)]

/-- PLEN can hold the payload length of a well-formed header value (10_state R12). -/
theorem State.loadHeader_plen_toNat : (s.loadHeader H).plen.toNat = H.payload.length := by
  have length_le := wf.lengthFits
  rw [loadHeader_plen, BitVec.toNat_ofNat, Nat.mod_eq_of_lt (by omega)]

end

/-- A DECODE that leaves ERR 0 has decoded the buffer (41_decode R91). -/
theorem completeDecode_of_err_eq_zero {s : State} (h : (completeDecode s).err = 0#3) :
    ∃ H, decodePacket s.buffer = .ok H ∧ completeDecode s = (s.loadHeader H).succeed := by
  obtain ⟨e, -, hc⟩ | loaded := completeDecode_cases s
  · rw [hc, State.raise_err] at h
    exact absurd h e.code_ne_zero
  · exact loaded

/-- Settles O19: the registers after the completion are the fields and the lengths of a well-formed header value. -/
theorem decodedHeaderIsWellFormed : Obligations.DecodedHeaderIsWellFormed := by
  refine ⟨fun bs H decoded => ⟨decodePacket_ok_wf decoded, decodePacket_ok_totalLength decoded⟩, fun s is_decode ok => ?_⟩
  rw [complete_decode is_decode] at ok ⊢
  obtain ⟨H, decoded, hc⟩ := completeDecode_of_err_eq_zero ok
  have wf := decodePacket_ok_wf decoded
  have total_eq := decodePacket_ok_totalLength decoded
  rw [State.buffer_length] at total_eq
  rw [hc, State.succeed_hdr, State.succeed_nopt, State.succeed_plen, State.succeed_blen, State.loadHeader_hdr,
    State.loadHeader_blen, State.loadHeader_nopt_toNat s wf, State.loadHeader_plen_toNat s wf]
  exact ⟨wf.ihlTrue, Nat.mul_comm 4 _ ▸ wf.totalTrue, BitVec.eq_of_toNat_eq total_eq⟩

/-! ## DECODE on the machine -/

/-- Settles O20: the issue leaves the buffer as it was, and the completion loads what it decodes to. -/
theorem decodeLoadsTheHeaderValue : Obligations.DecodeLoadsTheHeaderValue := by
  intro s H idle decoded
  let t := (s.issue .decode).respond .ok none
  have decode_done : complete t = (t.loadHeader H).succeed :=
    (complete_decode rfl).trans (completeDecode_of_ok (s := t) decoded)
  have wf := decodePacket_ok_wf decoded
  exact ⟨t, _, issueCommand_idle idle .decode, rfl, rfl, decode_done, rfl, t.loadHeader_nopt_toNat wf,
    t.loadHeader_plen_toNat wf, fun k hk => getElem_writeOptions s.opt H.options k hk, t.payByte_loadHeader H⟩

end Sys2Proof.Machine

/-! Encode: well-formed header values there and back (O23), the wire's numbers read off the parser (O22), decoded packets back to
their bytes (O24), the stored lengths (O25), and ENCODE on the machine (O26). -/

namespace Sys2Proof.Machine

/-! ## Encode by its two lengths -/

/-- Encode of a header value whose lengths fit (42_encode R110). -/
theorem encodeHeader_of_fits {H : HeaderValue} (ho : H.options.length ≤ 10)
    (hl : 4 * (5 + H.options.length) + H.payload.length ≤ 65535) :
    encodeHeader H =
      .ok (headerBytes H.fields H.options H.payload.length H.fields.headerChecksum ++ H.payload) :=
  ifEncodable_ok (encodeError?_eq_none_iff.mpr ⟨ho, hl⟩) _

/-- An encoded packet has the recomputed total length (42_encode R110, R114). -/
theorem encodeHeader_ok_length {H : HeaderValue} {bs : List Byte} (h : encodeHeader H = .ok bs) :
    bs.length = 4 * (5 + H.options.length) + H.payload.length := by
  obtain ⟨-, rfl⟩ := ifEncodable_eq_ok_iff.mp h
  rw [List.length_append, headerBytes_length]
  omega

theorem totalBytes_eq (n p : Nat) : totalBytes n p = 4 * (5 + n) + p := by rw [totalBytes, headerWords, Nat.mul_comm]

/-- The header value with its two stored lengths recomputed (42_encode R112). -/
def HeaderValue.withTrueLengths (H : HeaderValue) : HeaderValue :=
  { H with fields := { H.fields with
      ihl := BitVec.ofNat 4 (5 + H.options.length)
      totalLength := BitVec.ofNat 16 (4 * (5 + H.options.length) + H.payload.length) } }

/-- Decode of Encode recomputes the two stored lengths and keeps the rest (42_encode R112). -/
theorem decodePacket_encodeHeader {H : HeaderValue} (ho : H.options.length ≤ 10)
    (hl : 4 * (5 + H.options.length) + H.payload.length ≤ 65535) :
    ∃ bs, encodeHeader H = .ok bs ∧ decodePacket bs = .ok H.withTrueLengths := by
  refine ⟨_, encodeHeader_of_fits ho hl, ?_⟩
  rw [decodePacket_headerBytes H.fields H.fields.headerChecksum ho hl, totalBytes_eq]
  rfl

/-! ## Well-formed header values -/

section
variable {H : HeaderValue} (wf : H.WF)
include wf

/-- The recomputed IHL of a well-formed header value is the stored one (10_state R14). -/
theorem HeaderValue.WF.ofNat_headerWords : BitVec.ofNat 4 (headerWords H.options.length) = H.fields.ihl := by
  rw [headerWords, ← wf.ihlTrue, BitVec.ofNat_toNat, BitVec.setWidth_eq]

/-- The recomputed total length of a well-formed header value is the stored one (10_state R14). -/
theorem HeaderValue.WF.ofNat_totalBytes :
    BitVec.ofNat 16 (totalBytes H.options.length H.payload.length) = H.fields.totalLength := by
  rw [totalBytes, headerWords, ← wf.ihlTrue, ← wf.totalTrue, BitVec.ofNat_toNat, BitVec.setWidth_eq]

theorem HeaderValue.WF.withTrueLengths_eq : H.withTrueLengths = H := by
  rw [withTrueLengths, ← totalBytes_eq, ← headerWords, wf.ofNat_headerWords, wf.ofNat_totalBytes]

theorem HeaderValue.WF.total_le : 4 * (5 + H.options.length) + H.payload.length ≤ 65535 := by
  rw [← wf.ihlTrue, Nat.mul_comm]
  exact wf.lengthFits

end

/-- Settles O23: Decode of Encode recomputes the two stored lengths, which a well-formed header value has right. -/
theorem decodeOfEncodedHeader : Obligations.DecodeOfEncodedHeader := by
  refine ⟨fun H wf => ?_, fun H ho hl => decodePacket_encodeHeader ho hl⟩
  obtain ⟨bs, encoded, decoded⟩ := decodePacket_encodeHeader wf.optionsFit wf.total_le
  exact ⟨bs, encoded, wf.withTrueLengths_eq ▸ decoded⟩

/-! ## The bytes of the packet -/

/-- Settles O22: the errors are decided by the lengths, and the bytes are known from what they decode to: each number Decode
reads off them is the header value's. -/
theorem encodedBytesFollowTheWireFormat : Obligations.EncodedBytesFollowTheWireFormat := by
  intro H n p tl
  refine ⟨fun many => ifEncodable_error (encodeError?_eq_tooManyOptions many) _,
    fun few long => ifEncodable_error (encodeError?_eq_lenOverflow few long) _, fun few fits => ?_⟩
  obtain ⟨bs, encoded, decoded⟩ := decodePacket_encodeHeader few fits
  refine ⟨bs, encoded, encodeHeader_ok_length encoded, ?_⟩
  have wire := decodedFieldsAreTheWireFields bs _ decoded
  dsimp only [HeaderValue.withTrueLengths] at wire ⊢
  obtain ⟨version, ihl, dscp, ecn, total, identification, flags, offset, ttl, protocol, checksum, src, dst, -, options,
    payload⟩ := wire
  have ihl_eq : (bs.getD 0 0).toNat % 16 = 5 + n := by
    rw [← ihl]
    exact Nat.mod_eq_of_lt (by omega)
  have total_eq : (bs.getD 2 0).toNat * 256 + (bs.getD 3 0).toNat = tl := by
    rw [← total]
    exact Nat.mod_eq_of_lt (by omega)
  have b7_lt := (bs.getD 7 0).isLt
  refine ⟨?_, ?_, total_eq, identification.symm, ?_, ?_, ttl.symm, protocol.symm, checksum.symm, src.symm, dst.symm,
    fun k hk => (options k hk).symm, ?_⟩
  · rw [version, ← ihl_eq]; omega
  · rw [dscp, ecn]; omega
  · rw [flags, offset]; omega
  · rw [offset]; omega
  · rw [← ihl_eq, Nat.mul_comm]
    exact payload.symm

/-! ## Fields of the wire: each writer undoes its reader -/

theorem packByte_extractLsb' (b : Byte) {m n : Nat} (h : m + n = 8) :
    packByte (b.extractLsb' n m) (b.extractLsb' 0 n) = b := by
  refine BitVec.eq_of_getLsbD_eq fun i hi => ?_
  by_cases low : i < n
  · simp [packByte, low, hi]
  · have : i - n < m := by omega
    have : n + (i - n) = i := by omega
    simp [packByte, *]

/-- A byte of a number, from its value. -/
theorem extractLsb'_eq_of_toNat {w : Nat} {v : BitVec w} {start : Nat} {b : Byte} (h : v.toNat / 2 ^ start % 2 ^ 8 = b.toNat) :
    v.extractLsb' start 8 = b := by
  apply BitVec.eq_of_toNat_eq
  rw [BitVec.extractLsb'_toNat, Nat.shiftRight_eq_div_pow, h]

theorem halfBytes_halfAt (bs : List Byte) (i : Nat) : halfBytes (halfAt bs i) = [byteAt bs i, byteAt bs (i + 1)] := by
  have b0_lt := (byteAt bs i).isLt
  have b1_lt := (byteAt bs (i + 1)).isLt
  have value := halfAt_toNat bs i
  rw [halfBytes, extractLsb'_eq_of_toNat (b := byteAt bs i) (by omega),
    extractLsb'_eq_of_toNat (b := byteAt bs (i + 1)) (by omega)]

theorem wordBytes_wordAt (bs : List Byte) (i : Nat) :
    wordBytes (wordAt bs i) = [byteAt bs i, byteAt bs (i + 1), byteAt bs (i + 2), byteAt bs (i + 3)] := by
  have b0_lt := (byteAt bs i).isLt
  have b1_lt := (byteAt bs (i + 1)).isLt
  have b2_lt := (byteAt bs (i + 2)).isLt
  have b3_lt := (byteAt bs (i + 3)).isLt
  have value := wordAt_toNat bs i
  rw [wordBytes, extractLsb'_eq_of_toNat (b := byteAt bs i) (by omega),
    extractLsb'_eq_of_toNat (b := byteAt bs (i + 1)) (by omega),
    extractLsb'_eq_of_toNat (b := byteAt bs (i + 2)) (by omega),
    extractLsb'_eq_of_toNat (b := byteAt bs (i + 3)) (by omega)]

/-- The upper five bits of FOFF are the low five of byte 6 (30_encoding R65). -/
theorem parseFields_fragmentOffset_upper (bs : List Byte) :
    (parseFields bs).fragmentOffset.extractLsb' 8 5 = (byteAt bs 6).extractLsb' 0 5 := by
  have b7_lt := (byteAt bs 7).isLt
  apply BitVec.eq_of_toNat_eq
  rw [BitVec.extractLsb'_toNat, parseFields_fragmentOffset_toNat, toNat_extractLsb'_lower, Nat.shiftRight_eq_div_pow]
  omega

/-- The lower eight bits of FOFF are byte 7 (30_encoding R65). -/
theorem parseFields_fragmentOffset_lower (bs : List Byte) :
    (parseFields bs).fragmentOffset.extractLsb' 0 8 = byteAt bs 7 := by
  have b7_lt := (byteAt bs 7).isLt
  have value := parseFields_fragmentOffset_toNat bs
  exact extractLsb'_eq_of_toNat (by omega)

/-! ## Encoded header bytes of parsed fields -/

/-- The first bytes of a sequence, one by one. -/
theorem map_byteAt_range {bs : List Byte} {n : Nat} (h : n ≤ bs.length) : (List.range n).map (byteAt bs) = bs.take n := by
  refine List.ext_getElem (by simp [h]) fun i hi _ => ?_
  have : i < bs.length := by simp at hi; omega
  simp [byteAt, this]

/-- Writing the option words that were read gives the bytes they were read from (30_encoding R69). -/
theorem flatMap_wordBytes_wordAt (bs : List Byte) (start n : Nat) :
    ((List.range n).map fun k => wordAt bs (start + 4 * k)).flatMap wordBytes =
      (List.range (4 * n)).map fun j => byteAt bs (start + j) := by
  induction n with
  | zero => rfl
  | succ n ih =>
    rw [List.range_succ, List.map_append, List.flatMap_append, ih, Nat.mul_succ, List.range_add, List.map_append]
    simp [wordBytes_wordAt, List.range_succ, Nat.add_assoc]

/-- The encoded header bytes of what a decodable sequence was parsed to are the sequence's own (42_encode R113). -/
theorem headerBytes_parsedHeader {bs : List Byte} (wf : (parsedHeader bs).WF) :
    headerBytes (parseFields bs) (parsedHeader bs).options (parsedHeader bs).payload.length (parseFields bs).headerChecksum =
      (List.range ((parseFields bs).ihl.toNat * 4)).map (byteAt bs) := by
  have header_length : (parseFields bs).ihl.toNat * 4 = 20 + 4 * ((parseFields bs).ihl.toNat - 5) := by
    have ihl_eq : (parseFields bs).ihl.toNat = 5 + (parsedHeader bs).options.length := wf.ihlTrue
    rw [parsedHeader_options_length] at ihl_eq
    omega
  have byte0 : packByte (parseFields bs).version (parsedHeader bs).fields.ihl = byteAt bs 0 := packByte_extractLsb' _ rfl
  have byte1 : packByte (parseFields bs).dscp (parseFields bs).ecn = byteAt bs 1 := packByte_extractLsb' _ rfl
  have byte6 : packByte (parseFields bs).flags ((parseFields bs).fragmentOffset.extractLsb' 8 5) = byteAt bs 6 := by
    rw [parseFields_fragmentOffset_upper]
    exact packByte_extractLsb' _ rfl
  have total : halfBytes (parsedHeader bs).fields.totalLength = [byteAt bs 2, byteAt bs 3] := halfBytes_halfAt bs 2
  have identification : halfBytes (parseFields bs).identification = [byteAt bs 4, byteAt bs 5] := halfBytes_halfAt bs 4
  have checksum : halfBytes (parseFields bs).headerChecksum = [byteAt bs 10, byteAt bs 11] := halfBytes_halfAt bs 10
  have src : wordBytes (parseFields bs).src = [byteAt bs 12, byteAt bs 13, byteAt bs 14, byteAt bs 15] :=
    wordBytes_wordAt bs 12
  have dst : wordBytes (parseFields bs).dst = [byteAt bs 16, byteAt bs 17, byteAt bs 18, byteAt bs 19] :=
    wordBytes_wordAt bs 16
  have options : (parsedHeader bs).options.flatMap wordBytes = _ := flatMap_wordBytes_wordAt bs 20 _
  rw [headerBytes, wf.ofNat_headerWords, wf.ofNat_totalBytes, byte0, byte1, total, identification, byte6,
    parseFields_fragmentOffset_lower, checksum, src, dst, options, header_length, List.range_add, List.map_append,
    List.map_map]
  rfl

/-- Settles O24: what Decode returns is well-formed, so Encode succeeds; its header bytes are the sequence's first and its
payload the rest. -/
theorem encodeOfDecodedPacket : Obligations.EncodeOfDecodedPacket := by
  intro bs H decoded
  have wf := decodePacket_ok_wf decoded
  obtain ⟨⟨-, -, -, header_le⟩, rfl⟩ := decodePacket_eq_ok_iff.mp decoded
  calc encodeHeader (parsedHeader bs)
    _ = .ok (headerBytes (parseFields bs) (parsedHeader bs).options (parsedHeader bs).payload.length
          (parseFields bs).headerChecksum ++ (parsedHeader bs).payload) := encodeHeader_of_fits wf.optionsFit wf.total_le
    _ = .ok (bs.take ((parseFields bs).ihl.toNat * 4) ++ bs.drop ((parseFields bs).ihl.toNat * 4)) := by
      rw [headerBytes_parsedHeader wf, map_byteAt_range header_le]
      rfl
    _ = .ok bs := by rw [List.take_append_drop]

/-! ## The stored lengths -/

/-- Settles O25: the encoded header bytes do not depend on the two stored lengths, and the reset state's are evaluated. -/
theorem encodeIgnoresStoredLengths : Obligations.EncodeIgnoresStoredLengths := by
  refine ⟨fun H i l => ?_, by rfl⟩
  exact congrArg (fun bytes => ifEncodable _ _ (bytes ++ H.payload)) (headerBytes_congr rfl _ _ _)

/-! ## ENCODE on the machine -/

/-- The block's encoded packet is Encode of its header value, where it stands for one (42_encode R111). -/
theorem State.encodeHeader_headerValue {s : State} (hn : s.nopt.toNat ≤ 10) : encodeHeader s.headerValue = s.encoded := by
  have options_eq : s.headerValue.options.length = s.nopt.toNat := by
    rw [headerValue, options_length, Nat.min_eq_left hn]
  have payload_eq : s.headerValue.payload.length = s.plen.toNat := s.payload_length
  rw [encodeHeader, options_eq, payload_eq]
  rfl

/-- Settles O26: the issue leaves the header value as it was, and the completion stores what it encodes to. -/
theorem encodeStoresThePacket : Obligations.EncodeStoresThePacket := by
  intro s idle hn hl
  obtain ⟨bs, encoded, -⟩ := State.decodePacket_encoded hn hl
  let t := (s.issue .encode).respond .ok none
  have encode_done : complete t = (t.storePacket bs).succeed :=
    (complete_encode rfl).trans (completeEncode_of_ok (s := t) encoded)
  have length_lt := State.encoded_length_lt encoded
  exact ⟨bs, t, _, (State.encodeHeader_headerValue hn).trans encoded, issueCommand_idle idle .encode, rfl, rfl, encode_done,
    rfl, Nat.mod_eq_of_lt length_lt, t.bufByte_storePacket bs⟩

end Sys2Proof.Machine

/-! One's-complement sums through one number, the end-around remainder of the plain sum: OcAdd16 (O28), OcSum (O29), order and
folding (O30), and what a flipped bit does (O33). -/

namespace Sys2Proof.Machine

/-! ## The end-around remainder -/

/-- What a one's-complement sum is of its plain sum: 0 for 0, and otherwise the one number in 1 to 0xFFFF congruent to it modulo
65535 (43_checksum R126). Tied to the model by `ocAdd16_toNat`, `ocSum_toNat` and `foldCarries_eq_endAround`. -/
def endAround (n : Nat) : Nat := if n = 0 then 0 else (n - 1) % 65535 + 1

theorem endAround_eq_zero_iff {n : Nat} : endAround n = 0 ↔ n = 0 := by
  unfold endAround
  split <;> omega

theorem endAround_mod (n : Nat) : endAround n % 65535 = n % 65535 := by
  unfold endAround
  split <;> omega

theorem endAround_of_le {n : Nat} (h : n ≤ 65535) : endAround n = n := by
  unfold endAround
  split <;> omega

/-- A sum may be reduced before more is added to it (43_checksum R132). -/
theorem endAround_add_left (m n : Nat) : endAround (endAround m + n) = endAround (m + n) := by
  unfold endAround
  split_ifs <;> omega

/-- One fold of the carries (43_checksum R132). -/
theorem endAround_fold (n : Nat) : endAround (n % 65536 + n / 65536) = endAround n := by
  unfold endAround
  split_ifs <;> omega

/-! ## OcAdd16 -/

theorem ocAdd16_toNat_eq_fold (a b : Half) :
    (ocAdd16 a b).toNat = (a.toNat + b.toNat) % 65536 + (a.toNat + b.toNat) / 65536 := by
  have a_lt := a.isLt
  have b_lt := b.isLt
  have plain : (a.setWidth 17 + b.setWidth 17).toNat = a.toNat + b.toNat := by
    rw [BitVec.toNat_add, BitVec.toNat_setWidth, BitVec.toNat_setWidth]
    omega
  simp only [ocAdd16, BitVec.toNat_add, BitVec.toNat_setWidth, BitVec.extractLsb'_toNat, plain,
    Nat.shiftRight_eq_div_pow, Nat.reducePow, Nat.div_one]
  obtain carry | no_carry := Nat.lt_or_ge 0xFFFF (a.toNat + b.toNat)
  · omega
  · omega

theorem ocAdd16_toNat (a b : Half) : (ocAdd16 a b).toNat = endAround (a.toNat + b.toNat) := by
  have fits : (ocAdd16 a b).toNat ≤ 65535 := Nat.le_of_lt_succ (ocAdd16 a b).isLt
  rw [← endAround_of_le fits, ocAdd16_toNat_eq_fold, endAround_fold]

theorem ocAdd16_comm (a b : Half) : ocAdd16 a b = ocAdd16 b a := by
  apply BitVec.eq_of_toNat_eq
  rw [ocAdd16_toNat, ocAdd16_toNat, Nat.add_comm]

theorem ocAdd16_assoc (a b c : Half) : ocAdd16 (ocAdd16 a b) c = ocAdd16 a (ocAdd16 b c) := by
  apply BitVec.eq_of_toNat_eq
  rw [ocAdd16_comm a (ocAdd16 b c)]
  simp only [ocAdd16_toNat, endAround_add_left]
  congr 1
  omega

theorem ocAdd16_eq_zero_iff {a b : Half} : ocAdd16 a b = 0 ↔ a = 0 ∧ b = 0 := by
  simp only [← BitVec.toNat_inj, ocAdd16_toNat, BitVec.ofNat_eq_ofNat, BitVec.toNat_ofNat, Nat.zero_mod,
    endAround_eq_zero_iff, Nat.add_eq_zero_iff]

/-- Settles O28: the sum is one fold of the plain sum, which keeps its class modulo 65535 and is 0 from 0 alone. -/
theorem ocAdd16IsEndAroundCarry : Obligations.OcAdd16IsEndAroundCarry := by
  refine ⟨fun a b => ⟨ocAdd16_toNat_eq_fold a b, ?_, ocAdd16_eq_zero_iff⟩, by decide⟩
  rw [ocAdd16_toNat, endAround_mod]

/-! ## The plain sum of the words -/

theorem beHalf_toNat (b0 b1 : Byte) : (beHalf b0 b1).toNat = b0.toNat * 256 + b1.toNat := by
  have b0_lt := b0.isLt
  have b1_lt := b1.isLt
  rw [beHalf, BitVec.toNat_ofNat]
  omega

theorem plainSum_cons_cons (b0 b1 : Byte) (bs : List Byte) :
    plainSum (b0 :: b1 :: bs) = b0.toNat * 256 + b1.toNat + plainSum bs := by rw [plainSum, beHalf_toNat]

/-- A byte sequence of even length is empty, or a word and then one of even length (43_checksum R126). -/
theorem even_length_induction {P : ∀ bs : List Byte, bs.length % 2 = 0 → Prop} (nil : P [] rfl)
    (word : ∀ (b0 b1 : Byte) (bs : List Byte) (even : bs.length % 2 = 0) (even' : (b0 :: b1 :: bs).length % 2 = 0),
      P bs even → P (b0 :: b1 :: bs) even') :
    ∀ (bs : List Byte) (even : bs.length % 2 = 0), P bs even
  | [], _ => nil
  | [_], even => absurd even (by simp)
  | b0 :: b1 :: bs, even =>
    have even_rest : bs.length % 2 = 0 := by simp only [List.length_cons] at even; omega
    word b0 b1 bs even_rest even (even_length_induction nil word bs even_rest)

/-- The plain sum, word by word over the indices (43_checksum R126). -/
theorem plainSum_eq_sum_range {bs : List Byte} (even : bs.length % 2 = 0) :
    plainSum bs =
      ((List.range (bs.length / 2)).map fun j => (bs.getD (2 * j) 0).toNat * 256 + (bs.getD (2 * j + 1) 0).toNat).sum := by
  induction bs, even using even_length_induction with
  | nil => rfl
  | word b0 b1 bs _ _ ih =>
    have words : (b0 :: b1 :: bs).length / 2 = bs.length / 2 + 1 := by simp only [List.length_cons]; omega
    rw [words, List.range_succ_eq_map, List.map_cons, List.sum_cons, List.map_map, plainSum_cons_cons, ih]
    rfl

theorem plainSum_append {xs : List Byte} (even : xs.length % 2 = 0) (ys : List Byte) :
    plainSum (xs ++ ys) = plainSum xs + plainSum ys := by
  induction xs, even using even_length_induction with
  | nil => exact (Nat.zero_add _).symm
  | word b0 b1 xs _ _ ih =>
    rw [List.cons_append, List.cons_append, plainSum_cons_cons, plainSum_cons_cons, ih]
    exact (Nat.add_assoc _ _ _).symm

theorem plainSum_eq_zero_iff {bs : List Byte} (even : bs.length % 2 = 0) : plainSum bs = 0 ↔ ∀ b ∈ bs, b = 0 := by
  induction bs, even using even_length_induction with
  | nil => simp [plainSum]
  | word b0 b1 bs _ _ ih =>
    have toNat_eq_zero : ∀ b : Byte, b.toNat = 0 ↔ b = 0 := fun b => BitVec.toNat_inj (y := 0)
    rw [plainSum_cons_cons, List.forall_mem_cons, List.forall_mem_cons, ← ih, ← toNat_eq_zero, ← toNat_eq_zero]
    omega

/-- Each word is at most 0xFFFF. -/
theorem plainSum_le {bs : List Byte} (even : bs.length % 2 = 0) : plainSum bs ≤ 65535 * (bs.length / 2) := by
  induction bs, even using even_length_induction with
  | nil => exact Nat.zero_le _
  | word b0 b1 bs _ _ ih =>
    have word_lt := (beHalf b0 b1).isLt
    rw [plainSum]
    simp only [List.length_cons]
    omega

/-- The place of byte `i` in its big-endian word (20_memory R41). -/
def byteWeight (i : Nat) : Nat := if i % 2 = 0 then 256 else 1

theorem byteWeight_add_two (i : Nat) : byteWeight (i + 2) = byteWeight i := by rw [byteWeight, Nat.add_mod_right, byteWeight]

/-- Another byte at index `i` changes the plain sum by the difference of the two at the byte's place. -/
theorem plainSum_set {bs : List Byte} (even : bs.length % 2 = 0) {i : Nat} (hi : i < bs.length) (v : Byte) :
    plainSum (bs.set i v) + byteWeight i * bs[i].toNat = plainSum bs + byteWeight i * v.toNat := by
  induction bs, even using even_length_induction generalizing i with
  | nil => exact absurd hi (Nat.not_lt_zero i)
  | word b0 b1 bs _ _ ih =>
    match i with
    | 0 =>
      have weight : byteWeight 0 = 256 := rfl
      simp only [List.set_cons_zero, List.getElem_cons_zero, plainSum_cons_cons, weight]
      omega
    | 1 =>
      have weight : byteWeight 1 = 1 := rfl
      simp only [List.set_cons_succ, List.set_cons_zero, List.getElem_cons_succ, List.getElem_cons_zero, plainSum_cons_cons,
        weight]
      omega
    | i + 2 =>
      have rest := ih (i := i) (Nat.lt_of_succ_lt_succ (Nat.lt_of_succ_lt_succ hi))
      simp only [List.set_cons_succ, List.getElem_cons_succ, plainSum_cons_cons, byteWeight_add_two]
      omega

theorem plainSum_halfBytes (v : Half) : plainSum (halfBytes v) = v.toNat := by
  rw [halfBytes, plainSum, beHalf_halfBytes]
  rfl

theorem plainSum_flatMap_halfBytes (ws : List Half) : plainSum (ws.flatMap halfBytes) = (ws.map BitVec.toNat).sum := by
  induction ws with
  | nil => rfl
  | cons w ws ih =>
    rw [List.flatMap_cons, plainSum_append (by rw [halfBytes_length]), plainSum_halfBytes, ih, List.map_cons, List.sum_cons]

/-! ## OcSum -/

theorem ocSumFrom_append {xs : List Byte} (even : xs.length % 2 = 0) (sum : Half) (ys : List Byte) :
    ocSumFrom sum (xs ++ ys) = ocSumFrom (ocSumFrom sum xs) ys := by
  induction xs, even using even_length_induction generalizing sum with
  | nil => rfl
  | word b0 b1 xs _ _ ih => exact ih (ocAdd16 sum (beHalf b0 b1))

theorem ocSumFrom_toNat (sum : Half) (bs : List Byte) :
    (ocSumFrom sum bs).toNat = endAround (sum.toNat + plainSum bs) := by
  induction sum, bs using ocSumFrom.induct with
  | case1 sum b0 b1 bs ih => rw [ocSumFrom, ih, ocAdd16_toNat, endAround_add_left, plainSum, Nat.add_assoc]
  | case2 bs sum short =>
    rw [ocSumFrom, plainSum]
    · exact (endAround_of_le (Nat.le_of_lt_succ sum.isLt)).symm
    all_goals exact short

/-- OcSum is the end-around remainder of the plain sum (43_checksum R126). -/
theorem ocSum_toNat (bs : List Byte) : (ocSum bs).toNat = endAround (plainSum bs) := by
  rw [ocSum, ocSumFrom_toNat]
  exact congrArg endAround (Nat.zero_add _)

theorem ocSum_eq_zero_iff {bs : List Byte} (even : bs.length % 2 = 0) : ocSum bs = 0 ↔ ∀ b ∈ bs, b = 0 := by
  rw [← plainSum_eq_zero_iff even, ← endAround_eq_zero_iff, ← ocSum_toNat]
  exact BitVec.toNat_inj.symm

/-- Settles O29: the last word is the last to be added, and the rest is read off the plain sum. -/
theorem ocSumIsTheSumOfTheWords : Obligations.OcSumIsTheSumOfTheWords := by
  refine ⟨fun b0 b1 bs even => ocSumFrom_append even 0 [b0, b1], rfl, fun bs even => ⟨ocSum_eq_zero_iff even, ?_⟩⟩
  rw [ocSum_toNat, endAround_mod, plainSum_eq_sum_range even]

/-! ## Order and folding -/

/-- The fold makes a number smaller, so as many folds as the number says are enough (43_checksum R132). -/
theorem foldCarries_eq_endAround {fuel t : Nat} (h : t ≤ fuel) : foldCarries fuel t = endAround t := by
  induction fuel generalizing t with
  | zero => rw [Nat.le_zero.mp h]; rfl
  | succ fuel ih =>
    rw [foldCarries]
    split_ifs with carries
    · rw [ih (by omega), endAround_fold]
    · exact (endAround_of_le (by omega)).symm

/-- Two folds are enough for a number of 21 bits, such as the plain sum of a header (43_checksum R132). -/
theorem foldCarries_two {t : Nat} (h : t < 2 ^ 21) : foldCarries 2 t = endAround t := by
  simp only [foldCarries]
  split_ifs with once twice
  · rw [← endAround_fold t, ← endAround_fold, endAround_of_le (by omega)]
  · rw [← endAround_fold t, endAround_of_le (by omega)]
  · rw [endAround_of_le (by omega)]

theorem ocSumDeferred_eq (bs : List Byte) : ocSumDeferred bs = endAround (plainSum bs) :=
  foldCarries_eq_endAround le_rfl

/-- The encoded header bytes are those with a zero checksum, but for bytes 10 and 11 (43_checksum R127). -/
theorem headerBytes_eq_take_drop (h : Fields) (options : List Word) (p : Nat) (checksum : Half) :
    headerBytes h options p checksum =
      (headerBytes h options p 0).take 10 ++ (halfBytes checksum ++ (headerBytes h options p 0).drop 12) := rfl

/-- The checksum is one of the words of the header. -/
theorem plainSum_headerBytes (h : Fields) (options : List Word) (p : Nat) (checksum : Half) :
    plainSum (headerBytes h options p checksum) = plainSum (headerBytes h options p 0) + checksum.toNat := by
  have front_even : ((headerBytes h options p 0).take 10).length % 2 = 0 := by
    rw [List.length_take, headerBytes_length]
    omega
  have sum_of : ∀ c : Half, plainSum (headerBytes h options p c) = plainSum ((headerBytes h options p 0).take 10) +
      (c.toNat + plainSum ((headerBytes h options p 0).drop 12)) := fun c => by
    rw [headerBytes_eq_take_drop, plainSum_append front_even, plainSum_append (by rw [halfBytes_length]),
      plainSum_halfBytes]
  have zero_toNat : (0 : Half).toNat = 0 := rfl
  rw [sum_of checksum, sum_of 0, zero_toNat]
  omega

/-- HeaderBytes0 exists for encodable lengths (43_checksum R127). -/
theorem headerBytes0_eq_ok_iff {H : HeaderValue} {bs : List Byte} :
    headerBytes0 H = .ok bs ↔ (H.options.length ≤ 10 ∧ 4 * (5 + H.options.length) + H.payload.length ≤ 65535) ∧
      headerBytes H.fields H.options H.payload.length 0 = bs := by
  rw [headerBytes0, ifEncodable_eq_ok_iff, encodeError?_eq_none_iff]

/-- At most 30 words, one of which is 0: with 0xFFFF in its place the bound is that of 30 words (43_checksum R132). -/
theorem plainSum_headerBytes0_le {H : HeaderValue} {bs : List Byte} (h : headerBytes0 H = .ok bs) :
    plainSum bs ≤ 1900515 := by
  obtain ⟨⟨few, -⟩, rfl⟩ := headerBytes0_eq_ok_iff.mp h
  have ones_toNat : (0xFFFF : Half).toNat = 65535 := rfl
  have bound := plainSum_le (bs := headerBytes H.fields H.options H.payload.length 0xFFFF)
    (by rw [headerBytes_length]; omega)
  rw [plainSum_headerBytes, headerBytes_length, ones_toNat] at bound
  omega

/-- Settles O30: all these sums are the end-around remainder of the plain sum, in which order does not matter. -/
theorem orderAndFoldingDoNotMatter : Obligations.OrderAndFoldingDoNotMatter := by
  refine ⟨ocAdd16_comm, ocAdd16_assoc, fun ws vs perm => BitVec.eq_of_toNat_eq ?_, fun bs _ => ?_, fun H bs h => ?_⟩
  · rw [ocSum_toNat, ocSum_toNat, plainSum_flatMap_halfBytes, plainSum_flatMap_halfBytes, (perm.map BitVec.toNat).sum_eq]
  · rw [ocSum_toNat, ocSumDeferred_eq]
  · have bound := plainSum_headerBytes0_le h
    exact ⟨bound, by rw [ocSumDeferred_eq, foldCarries_two (by omega)]⟩

/-! ## A changed byte -/

/-- Any change of a single byte changes the sum: the plain sum changes by less than 65535, and not by 0 (43_checksum R135). -/
theorem ocSum_set_ne {bs : List Byte} (even : bs.length % 2 = 0) {i : Nat} (hi : i < bs.length) {v : Byte}
    (changed : v ≠ bs[i]) : ocSum (bs.set i v) ≠ ocSum bs := by
  intro same
  have same_class : plainSum (bs.set i v) % 65535 = plainSum bs % 65535 := by
    rw [← endAround_mod, ← ocSum_toNat, same, ocSum_toNat, endAround_mod]
  have difference := plainSum_set even hi v
  have values_ne : v.toNat ≠ bs[i].toNat := fun h => changed (BitVec.eq_of_toNat_eq h)
  have v_lt := v.isLt
  have old_lt := bs[i].isLt
  rw [byteWeight] at difference
  split_ifs at difference <;> omega

theorem checksumOf_inj {xs ys : List Byte} : checksumOf xs = checksumOf ys ↔ ocSum xs = ocSum ys := BitVec.not_inj

/-- A flipped bit makes another byte. -/
theorem xor_bit_ne (b : Byte) {k : Nat} (hk : k < 8) : b ^^^ (1#8 <<< k) ≠ b := by
  intro h
  have bit := congrArg (BitVec.getLsbD · k) h
  simp [hk] at bit

/-- Settles O33: outside bytes 10 and 11 the flip is a change of one byte of what is summed; inside them it is written over. -/
theorem singleBitFlipChangesTheChecksum : Obligations.SingleBitFlipChangesTheChecksum := by
  intro bs i k even hi hk
  refine ⟨fun ne10 ne11 => ?_, fun inside => ?_⟩
  · rw [csumBytes, csumBytes, List.set_comm _ _ ne10, List.set_comm _ _ ne11, Ne, checksumOf_inj]
    refine ocSum_set_ne (by simpa using even) (by simpa using hi) ?_
    have old_eq : ((bs.set 10 0).set 11 0)[i]'(by simpa using hi) = bs.getD i 0 := by
      simp [ne10.symm, ne11.symm, hi]
    rw [old_eq]
    exact xor_bit_ne _ hk
  · obtain rfl | rfl := inside
    · rw [csumBytes, List.set_set, csumBytes]
    · rw [csumBytes, List.set_comm _ _ (show 11 ≠ 10 by decide), List.set_set, csumBytes]

end Sys2Proof.Machine

/-! ComputeChecksum and VerifyChecksum of a header value (O31, O32, O34, O35), and CSUM and VERIFY on the machine (O36, O37,
O39). -/

namespace Sys2Proof.Machine

/-! ## ComputeChecksum -/

theorem computeChecksum_of_headerBytes0 {H : HeaderValue} {bs : List Byte} (h : headerBytes0 H = .ok bs) :
    computeChecksum H = .ok (checksumOf bs) := by
  rw [computeChecksum, h]
  rfl

/-- The sum of a header is never 0, for byte 0 holds the recomputed IHL, which is 5 to 15 (43_checksum R134). -/
theorem ocSum_headerBytes0_ne_zero {H : HeaderValue} {bs : List Byte} (h : headerBytes0 H = .ok bs) : ocSum bs ≠ 0 := by
  obtain ⟨⟨few, -⟩, rfl⟩ := headerBytes0_eq_ok_iff.mp h
  rw [Ne, ocSum_eq_zero_iff (by rw [headerBytes_length]; omega)]
  intro all_zero
  have byte0 : packByte H.fields.version (BitVec.ofNat 4 (headerWords H.options.length)) = 0 :=
    all_zero _ List.mem_cons_self
  have ihl_eq := extractLsb'_packByte_lo H.fields.version (BitVec.ofNat 4 (headerWords H.options.length)) rfl
  have ihl_zero : (BitVec.ofNat 4 (headerWords H.options.length)).toNat = 0 := by
    rw [← ihl_eq, byte0]
    rfl
  rw [headerWords, BitVec.toNat_ofNat] at ihl_zero
  omega

theorem checksumOf_toNat (bs : List Byte) : (checksumOf bs).toNat = 0xFFFF - (ocSum bs).toNat := BitVec.toNat_not

theorem checksumOf_eq_allOnes_iff {bs : List Byte} : checksumOf bs = 0xFFFF ↔ ocSum bs = 0 :=
  BitVec.not_inj (y := 0)

theorem checksumOf_eq_zero_iff {bs : List Byte} : checksumOf bs = 0 ↔ ocSum bs = 0xFFFF :=
  BitVec.not_inj (y := 0xFFFF)

theorem checksumOf_headerBytes0_ne_allOnes {H : HeaderValue} {bs : List Byte} (h : headerBytes0 H = .ok bs) :
    checksumOf bs ≠ 0xFFFF := fun all_ones => ocSum_headerBytes0_ne_zero h (checksumOf_eq_allOnes_iff.mp all_ones)

theorem computeChecksum_ne_allOnes (H : HeaderValue) : computeChecksum H ≠ .ok 0xFFFF := by
  intro computed
  cases h : headerBytes0 H with
  | error e => simp [computeChecksum, h, Except.map] at computed
  | ok bs =>
    rw [computeChecksum_of_headerBytes0 h] at computed
    exact checksumOf_headerBytes0_ne_allOnes h (Except.ok.inj computed)

/-- Settles O31: the checksum is the complement of a sum that is never 0. -/
theorem checksumIsNeverAllOnes : Obligations.ChecksumIsNeverAllOnes := by
  refine ⟨fun H bs h => ⟨checksumOf bs, computeChecksum_of_headerBytes0 h, checksumOf_toNat bs, ?_,
    checksumOf_eq_zero_iff⟩, by rfl⟩
  exact checksumOf_headerBytes0_ne_allOnes h

/-! ## A decoded packet -/

/-- Zeroing bytes 10 and 11 of the encoded header bytes forces the checksum field to zero (43_checksum R127). -/
theorem headerBytes_set_checksum (h : Fields) (options : List Word) (p : Nat) (checksum : Half) :
    ((headerBytes h options p checksum).set 10 0).set 11 0 = headerBytes h options p 0 := rfl

/-- The header bytes of a decoded packet, read back from its header value (43_checksum R133). -/
theorem headerBytes0_of_decoded {bs : List Byte} {H : HeaderValue} (decoded : decodePacket bs = .ok H) :
    headerBytes0 H = .ok (((bs.take (4 * H.fields.ihl.toNat)).set 10 0).set 11 0) := by
  have wf := decodePacket_ok_wf decoded
  obtain ⟨⟨-, -, -, header_le⟩, rfl⟩ := decodePacket_eq_ok_iff.mp decoded
  have header_eq := (headerBytes_parsedHeader wf).trans (map_byteAt_range header_le)
  refine headerBytes0_eq_ok_iff.mpr ⟨⟨wf.optionsFit, wf.total_le⟩, ?_⟩
  calc headerBytes (parseFields bs) (parsedHeader bs).options (parsedHeader bs).payload.length 0
    _ = ((headerBytes (parseFields bs) (parsedHeader bs).options (parsedHeader bs).payload.length
          (parseFields bs).headerChecksum).set 10 0).set 11 0 := (headerBytes_set_checksum _ _ _ _).symm
    _ = ((bs.take (4 * (parseFields bs).ihl.toNat)).set 10 0).set 11 0 := by rw [header_eq, Nat.mul_comm]

/-- Settles O32: the header bytes of a decoded packet are those of its header value. -/
theorem checksumOfADecodedPacket : Obligations.ChecksumOfADecodedPacket :=
  ⟨fun _ _ decoded =>
    ⟨headerBytes0_of_decoded decoded, computeChecksum_of_headerBytes0 (headerBytes0_of_decoded decoded)⟩,
    by decide, computeChecksum_ne_allOnes⟩

/-! ## VerifyChecksum -/

theorem verifyChecksum_eq_true_iff {H : HeaderValue} :
    verifyChecksum H = true ↔ computeChecksum H = .ok H.fields.headerChecksum := by
  unfold verifyChecksum
  cases computeChecksum H <;> simp

/-- The sum-to-ones test: beside the complement, 0xFFFF itself adds to 0xFFFF without changing it (43_checksum R136). -/
theorem ocAdd16_eq_allOnes_iff {sum c : Half} : ocAdd16 sum c = 0xFFFF ↔ ~~~sum = c ∨ (~~~sum = 0 ∧ c = 0xFFFF) := by
  have sum_lt := sum.isLt
  have c_lt := c.isLt
  simp only [← BitVec.toNat_inj, ocAdd16_toNat_eq_fold, BitVec.toNat_not, BitVec.ofNat_eq_ofNat, BitVec.toNat_ofNat]
  omega

/-- The stored checksum is the last word to be added, in whatever place it stands (43_checksum R132). -/
theorem ocSum_headerBytes (h : Fields) (options : List Word) (p : Nat) (checksum : Half) :
    ocSum (headerBytes h options p checksum) = ocAdd16 (ocSum (headerBytes h options p 0)) checksum := by
  apply BitVec.eq_of_toNat_eq
  rw [ocAdd16_toNat, ocSum_toNat, ocSum_toNat, plainSum_headerBytes, endAround_add_left]

/-- Settles O34: the sum with the stored checksum is 0xFFFF when that is the complement of the sum without it, or when that sum
is 0xFFFF and so is the stored checksum. -/
theorem verifyIsAComparison : Obligations.VerifyIsAComparison := by
  refine ⟨fun _ => verifyChecksum_eq_true_iff, fun H few fits => ?_, by rfl, by rfl⟩
  have computed := computeChecksum_of_headerBytes0 (headerBytes0_eq_ok_iff.mpr ⟨⟨few, fits⟩, rfl⟩)
  rw [ocSum_headerBytes, ocAdd16_eq_allOnes_iff, verifyChecksum_eq_true_iff, computed, Except.ok.injEq, Except.ok.injEq]
  rfl

/-! ## What the checksum depends on -/

/-- Settles O35: the header bytes do not depend on the three stored fields, and of the payload on its length alone. -/
theorem checksumReadsNoPayloadByte : Obligations.ChecksumReadsNoPayloadByte := by
  intro H i l c p same_length
  rw [computeChecksum, computeChecksum, headerBytes0, headerBytes0, same_length]
  rfl

/-! ## CSUM and VERIFY on the machine -/

/-- The block's checksum exists for encodable lengths (43_checksum R129). -/
theorem State.exists_checksum_eq_ok {s : State} (hn : s.nopt.toNat ≤ 10)
    (hl : 4 * (5 + s.nopt.toNat) + s.plen.toNat ≤ 65535) : ∃ c, s.checksum = .ok c :=
  ⟨_, ifEncodable_ok (encodeError?_eq_none_iff.mpr ⟨hn, hl⟩) _⟩

/-- The state in which an idle block has answered a command. -/
def State.commandIssued (s : State) (c : Command) : State := (s.issue c).respond .ok none

/-- The completion of CSUM after its issue (43_checksum R129). -/
theorem complete_csumIssued {s : State} {c : Half} (computed : s.checksum = .ok c) :
    complete (s.commandIssued .csum) = ((s.commandIssued .csum).setResult c).succeed :=
  (complete_csum rfl).trans (completeCsum_of_ok (s := s.commandIssued .csum) computed)

/-- The completion of VERIFY after its issue (43_checksum R131). -/
theorem complete_verifyIssued (s : State) :
    complete (s.commandIssued .verify) = ((s.commandIssued .verify).setResult (if s.verified then 1 else 0)).succeed :=
  complete_verify rfl

/-- Settles O36: the issue leaves the header value as it was, and the completion puts its checksum in RESULT. -/
theorem csumPutsTheChecksumInResult : Obligations.CsumPutsTheChecksumInResult := by
  intro s idle hn hl
  obtain ⟨c, computed⟩ := State.exists_checksum_eq_ok hn hl
  refine ⟨c, s.commandIssued .csum, (State.computeChecksum_headerValue hn).trans computed, issueCommand_idle idle .csum,
    rfl, rfl, ?_⟩
  rw [complete_csumIssued computed]
  rfl

/-- The block's answer to VERIFY is VerifyChecksum of its header value, where it stands for one (43_checksum R131). -/
theorem State.verifyChecksum_headerValue {s : State} (hn : s.nopt.toNat ≤ 10) :
    verifyChecksum s.headerValue = s.verified := by
  rw [verifyChecksum, computeChecksum_headerValue hn]
  rfl

/-- There is nothing to compare where the lengths cannot be encoded (43_checksum R131). -/
theorem State.verified_of_unencodable {s : State}
    (unencodable : 10 < s.nopt.toNat ∨ 65535 < 4 * (5 + s.nopt.toNat) + s.plen.toNat) : s.verified = false := by
  have refused : s.checksum = .error _ := ifEncodable_error (encodeError?_eq_some_of_unencodable unencodable) _
  rw [verified, refused]

/-- A stored checksum that is the block's own is verified (43_checksum R131). -/
theorem State.verified_of_checksum {s : State} (h : s.checksum = .ok s.hdr.headerChecksum) : s.verified = true := by
  rw [verified, h]
  exact beq_self_eq_true _

/-- Settles O37: the issue leaves the header value as it was, and the completion puts the comparison in RESULT. -/
theorem verifyPutsItsAnswerInResult : Obligations.VerifyPutsItsAnswerInResult := by
  intro s idle
  refine ⟨if s.verified then 1 else 0, s.commandIssued .verify, issueCommand_idle idle .verify, rfl, rfl, ?_,
    fun hn _ => ?_, fun unencodable => ?_⟩
  · rw [complete_verifyIssued]
    rfl
  · rw [State.verifyChecksum_headerValue hn]
  · rw [State.verified_of_unencodable unencodable]
    rfl

/-- WR HCSUM of a 16-bit value to an idle block (44_access R146). -/
theorem exec_wr_hcsum_idle {s : State} (idle : s.busy = false) (v : Half) :
    exec (.wr 10#16 (v.setWidth 32)) s = .next ((s.withChecksum v).respond .ok none) := by
  have low_bits : (v.setWidth 32).setWidth 16 = v := BitVec.setWidth_setWidth_of_le v (by decide)
  have fits : (v.setWidth 32).toNat < 2 ^ 16 := by
    rw [BitVec.toNat_setWidth_of_le (by decide)]
    exact v.isLt
  have accepted : accessCheck .wr 10#16 (v.setWidth 32) s.busy = .ok :=
    accessCheck_eq_ok_iff.mpr ⟨by decide, by simp [idle], decide_eq_true fits⟩
  calc exec (.wr 10#16 (v.setWidth 32)) s
    _ = .next ((s.withChecksum ((v.setWidth 32).setWidth 16)).respond .ok none) := exec_wr_ok (r := .hcsum) rfl accepted
    _ = _ := by rw [low_bits]

/-- Settles O39: the checksum does not depend on the stored one, so after the write it is the stored one. -/
theorem verifyAfterSetCsumAnswersOne : Obligations.VerifyAfterSetCsumAnswersOne := by
  intro s idle hn hl
  obtain ⟨c, computed⟩ := State.exists_checksum_eq_ok hn hl
  let stored := (((s.commandIssued .csum).setResult c).succeed.withChecksum c).respond .ok none
  have verified : stored.verified = true := State.verified_of_checksum computed
  refine ⟨s.commandIssued .csum, stored, stored.commandIssued .verify, issueCommand_idle idle .csum, ?_,
    issueCommand_idle (s := stored) rfl .verify, ?_, ?_⟩
  · rw [complete_csumIssued computed, BitVec.ofNat_toNat]
    exact exec_wr_hcsum_idle rfl c
  · rw [complete_verifyIssued, verified]
    rfl
  · rw [complete_verifyIssued]
    rfl

end Sys2Proof.Machine

/-! Host accesses on plain numbers: the response R155 gives a descriptor (O6), what an idle block accepts and what it refuses
(O8, O10, O11, O14), and the bytes of BUF and PAY (O12, O13). -/

namespace Sys2Proof.Machine

open Sys2Proof.Safety

/-! ## The common procedure in an idle block -/

/-- When an access that the busy interlock lets through is answered A_RANGE (44_access R154, R155). -/
theorem accessCheck_eq_range {kind : Kind} {index : BitVec 16} {data : Word} {busy : Bool}
    (present : accessExists kind index = true) (admitted : busy = true → kind = .rd ∧ index = 33#16)
    (wide : accessFits kind index data = false) : accessCheck kind index data busy = .range := by
  cases busy with
  | false => simp [accessCheck, present, wide]
  | true =>
    obtain ⟨rfl, rfl⟩ := admitted rfl
    simp [accessCheck, present, wide]

section
variable {kind : Kind} {index : BitVec 16} {data : Word} {s : State} {perform : State → State × Option Word}

/-- An idle block accepts what exists and fits (44_access R155). -/
theorem accessCheck_idle_ok (idle : s.busy = false) (present : accessExists kind index = true)
    (fits : accessFits kind index data = true) : accessCheck kind index data s.busy = .ok :=
  accessCheck_eq_ok_iff.mpr ⟨present, by simp [idle], fits⟩

theorem hostAccess_idle_ok (idle : s.busy = false) (present : accessExists kind index = true)
    (fits : accessFits kind index data = true) :
    hostAccess kind index data perform s = .next ((perform s).1.respond .ok (perform s).2) :=
  hostAccess_ok (accessCheck_idle_ok idle present fits) perform

/-- An idle block refuses with A_RANGE what exists and does not fit (44_access R154, R155). -/
theorem hostAccess_idle_range (idle : s.busy = false) (present : accessExists kind index = true)
    (wide : accessFits kind index data = false) :
    hostAccess kind index data perform s = .next (s.respond .range none) := by
  have out_of_range : accessCheck kind index data s.busy = .range := accessCheck_eq_range present (by simp [idle]) wide
  rw [hostAccess_refused (by simp [out_of_range]), out_of_range]

end

/-! ## Registers by name -/

section
variable {s : State} {r : Reg}

/-- RD of a readable register (44_access R145). -/
theorem exec_rd_regNumber (idle : s.busy = false) (readable : regReadable r = true) :
    exec (.rd (regNumber r)) s = .next (s.respond .ok (readReg s r)) := by
  have present : accessExists .rd (regNumber r) = true := by simp [accessExists, regAt_regNumber, readable]
  rw [exec_rd_ok (accessCheck_idle_ok idle present rfl), regAt_regNumber, Option.bind_some]

/-- WR of a value that fits (44_access R146). -/
theorem exec_wr_regNumber_fits (idle : s.busy = false) (writable : regWritable r = true) {v : Word}
    (fits : v.toNat < 2 ^ regWidth r) : exec (.wr (regNumber r) v) s = .next ((writeReg s r v).respond .ok none) := by
  have present : accessExists .wr (regNumber r) = true := by simp [accessExists, regAt_regNumber, writable]
  have value_fits : accessFits .wr (regNumber r) v = true := by simp [accessFits, regAt_regNumber, fits]
  exact exec_wr_ok (regAt_regNumber r) (accessCheck_idle_ok idle present value_fits)

/-- WR of a value that does not fit (44_access R154). -/
theorem exec_wr_regNumber_wide (idle : s.busy = false) (writable : regWritable r = true) {v : Word}
    (wide : 2 ^ regWidth r ≤ v.toNat) : exec (.wr (regNumber r) v) s = .next (s.respond .range none) := by
  have present : accessExists .wr (regNumber r) = true := by simp [accessExists, regAt_regNumber, writable]
  have value_wide : accessFits .wr (regNumber r) v = false := by simp [accessFits, regAt_regNumber, wide]
  rw [exec, execWr, hostAccess_idle_range idle present value_wide]

end

/-! ## The response to a descriptor -/

/-- The kind a kind field names (30_encoding R75, R77). -/
def kindOf (k : BitVec 3) : Kind :=
  match k.toNat with
  | 0 => .rd
  | 1 => .wr
  | 2 => .ldb
  | 3 => .stb
  | 4 => .ldp
  | 5 => .stp
  | _ => .reserved

/-- The numbers that name a register (30_encoding R78). -/
theorem regAt_eq_none_iff {index : BitVec 16} :
    regAt index = none ↔
      ¬ (index.toNat ≤ 14 ∨ (16 ≤ index.toNat ∧ index.toNat ≤ 25) ∨ (32 ≤ index.toNat ∧ index.toNat ≤ 37)) := by
  unfold regAt
  split
  case h_32 => -- the numbers that name none
    simp_all
    omega
  all_goals simp_all

/-- The width column of R78 is the model's. -/
theorem registerWidth_eq (index : BitVec 16) : registerWidth index.toNat = (regAt index).map regWidth := by
  cases named : regAt index with
  | none =>
    have no_register := regAt_eq_none_iff.mp named
    simp only [registerWidth, Option.map_none]
    repeat rw [if_neg (by omega)]
  | some r =>
    cases eq_regNumber_of_regAt named
    cases r with
    | opt k => fin_cases k <;> rfl
    | _ => rfl

theorem regReadable_regAt_eq_false_iff {index : BitVec 16} :
    (regAt index).any regReadable = false ↔ regAt index = none ∨ index.toNat = 32 := by
  cases named : regAt index with
  | none => simp
  | some r =>
    cases eq_regNumber_of_regAt named
    cases r with
    | opt k => fin_cases k <;> decide
    | _ => decide

theorem regWritable_regAt_eq_false_iff {index : BitVec 16} :
    (regAt index).any regWritable = false ↔
      regAt index = none ∨ index.toNat = 33 ∨ index.toNat = 34 ∨ index.toNat = 35 ∨ index.toNat = 36 := by
  cases named : regAt index with
  | none => simp
  | some r =>
    cases eq_regNumber_of_regAt named
    cases r with
    | opt k => fin_cases k <;> decide
    | _ => decide

/-- Check 1 of R155 is the one on plain numbers. -/
theorem accessExists_eq_false_iff (d : Descriptor) (index : BitVec 16) :
    accessExists (kindOf (kindField d)) index = false ↔ nothingThere (kindField d).toNat index.toNat := by
  obtain h | h | h | h | h | h | h | h := kindField_cases d <;>
    simp [h, kindOf, accessExists, nothingThere, regReadable_regAt_eq_false_iff, regWritable_regAt_eq_false_iff,
      regAt_eq_none_iff]

/-- Check 3 of R155 is the one on plain numbers. -/
theorem accessFits_eq_false_iff (d : Descriptor) (index : BitVec 16) (data : Word) :
    accessFits (kindOf (kindField d)) index data = false ↔ doesNotFit (kindField d).toNat index.toNat data.toNat := by
  obtain h | h | h | h | h | h | h | h := kindField_cases d
  case inr.inl => cases named : regAt index <;> simp [h, kindOf, accessFits, doesNotFit, registerWidth_eq, named]
  all_goals simp [h, kindOf, accessFits, doesNotFit]

/-- The access the busy interlock lets through is kind 0 at index 33. -/
theorem rd_status_iff (d : Descriptor) (index : BitVec 16) :
    (kindOf (kindField d) = .rd ∧ index = 33#16) ↔ (kindField d).toNat = 0 ∧ index.toNat = 33 := by
  obtain h | h | h | h | h | h | h | h := kindField_cases d <;> simp [h, kindOf, ← BitVec.toNat_inj]

/-- The common procedure answers as R155 says on plain numbers. -/
theorem answeredWith_accessCheck (d : Descriptor) (index : BitVec 16) (data : Word) (busy : Bool) :
    AnsweredWith (kindField d).toNat index.toNat data.toNat busy (accessCheck (kindOf (kindField d)) index data busy) := by
  rw [AnsweredWith, ← accessExists_eq_false_iff, ← accessFits_eq_false_iff, ← rd_status_iff]
  cases present : accessExists (kindOf (kindField d)) index with
  | false => exact .inl ⟨rfl, accessCheck_eq_badReg present data busy⟩
  | true =>
    by_cases held : busy = true ∧ ¬ (kindOf (kindField d) = .rd ∧ index = 33#16)
    · obtain ⟨rfl, not_status⟩ := held
      exact .inr (.inl ⟨by simp, ⟨rfl, not_status⟩, accessCheck_eq_busy present not_status data⟩)
    · have admitted : busy = true → kindOf (kindField d) = .rd ∧ index = 33#16 := by tauto
      cases fits : accessFits (kindOf (kindField d)) index data with
      | false => exact .inr (.inr (.inl ⟨by simp, held, rfl, accessCheck_eq_range present admitted fits⟩))
      | true =>
        exact .inr (.inr (.inr ⟨by simp, held, by simp, accessCheck_eq_ok_iff.mpr ⟨present, admitted, fits⟩⟩))

/-- A descriptor of kind 1, a command or not, is a write of its data to its index (opcode_table.json, note on WR). -/
theorem exec_decodeWrite (index : BitVec 16) (data : Word) (s : State) :
    ∃ perform, exec (decodeWrite index data) s = hostAccess .wr index data perform s := by
  obtain wf | ⟨rfl, rfl | rfl | rfl | rfl⟩ := wellFormed_wr_or_command index data
  · rw [decodeWrite_of_wellFormed wf, exec, execWr]
    exact ⟨_, rfl⟩
  · exact ⟨fun s => (s.issue .decode, none), rfl⟩
  · exact ⟨fun s => (s.issue .encode, none), rfl⟩
  · exact ⟨fun s => (s.issue .csum, none), rfl⟩
  · exact ⟨fun s => (s.issue .verify, none), rfl⟩

/-- The instruction of a descriptor goes through the common procedure with the descriptor's kind, and its other fields as far
as the response depends on them. -/
theorem exec_decodeDescriptor (d : Descriptor) (s : State) :
    ∃ index data perform,
      exec (decodeDescriptor d) s = hostAccess (kindOf (kindField d)) index data perform s ∧
      accessCheck (kindOf (kindField d)) index data s.busy =
        accessCheck (kindOf (kindField d)) (indexField d) (dataField d) s.busy := by
  obtain h | h | h | h | h | h | reserved := kindField_cases d
  · rw [decodeDescriptor_rd h, h, exec, execRd]
    exact ⟨_, _, _, rfl, rfl⟩
  · obtain ⟨perform, executed⟩ := exec_decodeWrite (indexField d) (dataField d) s
    rw [decodeDescriptor_write h, h, executed]
    exact ⟨_, _, _, rfl, rfl⟩
  · rw [decodeDescriptor_ldb h, h, exec, execLdb]
    exact ⟨_, _, _, rfl, rfl⟩
  · rw [decodeDescriptor_stb h, h, exec, execStb]
    exact ⟨_, _, _, rfl, rfl⟩
  · rw [decodeDescriptor_ldp h, h, exec, execLdp]
    exact ⟨_, _, _, rfl, rfl⟩
  · rw [decodeDescriptor_stp h, h, exec, execStp]
    exact ⟨_, _, _, rfl, rfl⟩
  · rw [decodeDescriptor_reserved reserved, exec, execReserved]
    obtain h | h := reserved <;> rw [h] <;> exact ⟨_, _, _, rfl, rfl⟩

/-- Settles O6: the instruction goes through the common procedure, whose three checks are those on plain numbers. -/
theorem everyDescriptorIsAnsweredAsSpecified : Obligations.EveryDescriptorIsAnsweredAsSpecified := by
  intro d s
  obtain ⟨index, data, perform, executed, same_response⟩ := exec_decodeDescriptor d s
  have as_specified := answeredWith_accessCheck d (indexField d) (dataField d) s.busy
  rw [← same_response] at as_specified
  obtain ⟨accepted, e⟩ | ⟨-, e⟩ := hostAccess_cases (kindOf (kindField d)) index data perform s
  · rw [accepted] at as_specified
    exact ⟨_, .ok, executed.trans e, as_specified, rfl, fun refused => absurd rfl refused⟩
  · exact ⟨_, _, executed.trans e, as_specified, rfl, fun _ => rfl⟩

/-! ## The bytes of BUF and PAY -/

/-- A value below 256 is its low byte. -/
theorem toNat_setWidth_byte {v : Word} (fits : v.toNat < 256) : (v.setWidth 8).toNat = v.toNat := by
  rw [BitVec.toNat_setWidth, Nat.mod_eq_of_lt fits]

theorem setWidth_setWidth_byte {v : Word} (fits : v.toNat < 256) : (v.setWidth 8).setWidth 32 = v := by
  apply BitVec.eq_of_toNat_eq
  rw [BitVec.toNat_setWidth_of_le (by decide), toNat_setWidth_byte fits]

@[simp] theorem State.bufByte_respond (s : State) (r : Response) (data : Option Word) (i : Nat) :
    (s.respond r data).bufByte i = s.bufByte i := rfl

@[simp] theorem State.payByte_respond (s : State) (r : Response) (data : Option Word) (i : Nat) :
    (s.respond r data).payByte i = s.payByte i := rfl

/-- What every cell of BUF reads after a write to one of them (44_access R147). -/
theorem State.bufByte_writeBuf (s : State) (i j : Nat) (v : Byte) :
    (s.writeBuf i v).bufByte j = if j = i then v else s.bufByte j := by
  simp only [bufByte, writeBuf_buf, writeBuf_copy, writeBuf_epoch, Memory.read?_write]
  split <;> rfl

/-- What every cell of PAY reads after a write to one of them (44_access R150). -/
theorem State.payByte_writePay (s : State) (i j : Nat) (v : Byte) :
    (s.writePay i v).payByte j = if j = i then v else s.payByte j := by
  simp only [payByte, writePay_pay, writePay_copy, writePay_epoch, Memory.read?_write]
  split <;> rfl

section
variable {s : State} {index : BitVec 16} {v : Word}

/-- LDB of an existing cell (44_access R147). -/
theorem exec_ldb_idle (idle : s.busy = false) (present : index.toNat ≤ 65534) :
    exec (.ldb index) s = .next (s.respond .ok (some ((s.bufByte index.toNat).setWidth 32))) := by
  rw [exec, execLdb]
  exact hostAccess_idle_ok idle (decide_eq_true present) rfl

/-- LDP of an existing cell (44_access R150). -/
theorem exec_ldp_idle (idle : s.busy = false) (present : index.toNat ≤ 65514) :
    exec (.ldp index) s = .next (s.respond .ok (some ((s.payByte index.toNat).setWidth 32))) := by
  rw [exec, execLdp]
  exact hostAccess_idle_ok idle (decide_eq_true present) rfl

/-- STB of a byte to an existing cell (44_access R147). -/
theorem exec_stb_fits (idle : s.busy = false) (present : index.toNat ≤ 65534) (fits : v.toNat < 256) :
    exec (.stb index v) s = .next ((s.writeBuf index.toNat (v.setWidth 8)).respond .ok none) := by
  rw [exec, execStb]
  exact hostAccess_idle_ok idle (decide_eq_true present) (decide_eq_true fits)

/-- STP of a byte to an existing cell (44_access R150). -/
theorem exec_stp_fits (idle : s.busy = false) (present : index.toNat ≤ 65514) (fits : v.toNat < 256) :
    exec (.stp index v) s = .next ((s.writePay index.toNat (v.setWidth 8)).respond .ok none) := by
  rw [exec, execStp]
  exact hostAccess_idle_ok idle (decide_eq_true present) (decide_eq_true fits)

/-- STB of more than a byte (44_access R154). -/
theorem exec_stb_wide (idle : s.busy = false) (present : index.toNat ≤ 65534) (wide : 256 ≤ v.toNat) :
    exec (.stb index v) s = .next (s.respond .range none) := by
  rw [exec, execStb]
  exact hostAccess_idle_range idle (decide_eq_true present) (decide_eq_false (Nat.not_lt.mpr wide))

/-- STP of more than a byte (44_access R154). -/
theorem exec_stp_wide (idle : s.busy = false) (present : index.toNat ≤ 65514) (wide : 256 ≤ v.toNat) :
    exec (.stp index v) s = .next (s.respond .range none) := by
  rw [exec, execStp]
  exact hostAccess_idle_range idle (decide_eq_true present) (decide_eq_false (Nat.not_lt.mpr wide))

end

/-- Settles O12: a cell of BUF reads the byte just written to it, and every other cell what it read before. -/
theorem bufferBytesAreReadAndWritten : Obligations.BufferBytesAreReadAndWritten := by
  intro s i idle present
  refine ⟨?_, fun v => ⟨exec_stb_wide idle present, fun fits => ?_⟩⟩
  · rw [exec_ldb_idle idle present, BitVec.ofNat_toNat]
    rfl
  · have written : (s.writeBuf i.toNat (v.setWidth 8)).bufByte i.toNat = v.setWidth 8 := by
      rw [State.bufByte_writeBuf, if_pos rfl]
    refine ⟨_, exec_stb_fits idle present fits, rfl, ?_, fun j other => ?_, ?_⟩
    · rw [State.bufByte_respond, written, toNat_setWidth_byte fits]
    · rw [State.bufByte_respond, State.bufByte_writeBuf, if_neg other]
    · rw [exec_ldb_idle (by simpa using idle) present, State.bufByte_respond, written, setWidth_setWidth_byte fits]
      rfl

/-- Settles O13: a cell of PAY reads the byte just written to it, and every other cell what it read before. -/
theorem payloadBytesAreReadAndWritten : Obligations.PayloadBytesAreReadAndWritten := by
  intro s i idle present
  refine ⟨?_, fun v => ⟨exec_stp_wide idle present, fun fits => ?_⟩⟩
  · rw [exec_ldp_idle idle present, BitVec.ofNat_toNat]
    rfl
  · have written : (s.writePay i.toNat (v.setWidth 8)).payByte i.toNat = v.setWidth 8 := by
      rw [State.payByte_writePay, if_pos rfl]
    refine ⟨_, exec_stp_fits idle present fits, rfl, ?_, fun j other => ?_, ?_⟩
    · rw [State.payByte_respond, written, toNat_setWidth_byte fits]
    · rw [State.payByte_respond, State.payByte_writePay, if_neg other]
    · rw [exec_ldp_idle (by simpa using idle) present, State.payByte_respond, written, setWidth_setWidth_byte fits]
      rfl

/-! ## Registers and commands of an idle block -/

/-- The readable registers of R78 but STATUS. -/
def readableRegs : List Reg :=
  [.ver, .ihl, .dscp, .ecn, .tlen, .id, .flags, .foff, .ttl, .proto, .hcsum, .src, .dst, .nopt, .plen, .opt 0, .opt 1,
    .opt 2, .opt 3, .opt 4, .opt 5, .opt 6, .opt 7, .opt 8, .opt 9, .result, .ereq, .eact, .blen]

/-- The writable registers of R78 narrower than the data port. -/
def narrowRegs : List Reg :=
  [.ver, .ihl, .dscp, .ecn, .tlen, .id, .flags, .foff, .ttl, .proto, .hcsum, .nopt, .plen, .cmd, .blen]

theorem regReadable_of_mem : ∀ r ∈ readableRegs, regReadable r = true := by decide

theorem regWritable_of_mem : ∀ r ∈ narrowRegs, regWritable r = true := by decide

/-- Every readable register holds a value. -/
theorem exists_readReg {r : Reg} (readable : regReadable r = true) (s : State) : ∃ v, readReg s r = some v := by
  cases r with
  | cmd => simp [regReadable] at readable
  | _ => exact ⟨_, rfl⟩

/-- Settles O8: the numbers and values listed are those of `readableRegs`, each read by name. -/
theorem rdReturnsTheStoredRegister : Obligations.RdReturnsTheStoredRegister := by
  intro s idle p listed
  obtain ⟨r, r_listed, rfl⟩ := List.mem_map.mp
    (show p ∈ readableRegs.map fun r => ((regNumber r).toNat, ((readReg s r).getD 0).toNat) from listed)
  have readable := regReadable_of_mem r r_listed
  obtain ⟨v, stored⟩ := exists_readReg readable s
  refine ⟨v, ?_, by rw [stored, Option.getD_some]⟩
  rw [BitVec.ofNat_toNat, BitVec.setWidth_eq, exec_rd_regNumber idle readable, stored]
  rfl

/-- Settles O10: register by register, the low bits of a value that fits are the value. -/
theorem wrStoresAFittingValue : Obligations.WrStoresAFittingValue := by
  intro s v idle
  have writes := fun r writable => exec_wr_regNumber_fits (r := r) (v := v) idle writable
  simp only [BitVec.ofNat_toNat]
  exact ⟨writes .ver rfl, writes .ihl rfl, writes .dscp rfl, writes .ecn rfl, writes .tlen rfl, writes .id rfl,
    writes .flags rfl, writes .foff rfl, writes .ttl rfl, writes .proto rfl, writes .hcsum rfl, writes .src rfl v.isLt,
    writes .dst rfl v.isLt, writes .nopt rfl, writes .plen rfl, fun k => writes (.opt k) rfl v.isLt, writes .blen rfl⟩

/-- Settles O11: the numbers and widths listed are those of `narrowRegs`, each written by name. -/
theorem wrRefusesAWideValue : Obligations.WrRefusesAWideValue := by
  intro s v idle p listed wide
  obtain ⟨r, r_listed, rfl⟩ := List.mem_map.mp
    (show p ∈ narrowRegs.map fun r => ((regNumber r).toNat, regWidth r) from listed)
  rw [BitVec.ofNat_toNat, BitVec.setWidth_eq, exec_wr_regNumber_wide idle (regWritable_of_mem r r_listed) wide]
  rfl

/-- Settles O14: each command is an issue the idle block accepts. -/
theorem commandIssueSetsBusy : Obligations.CommandIssueSetsBusy := by
  intro s idle p listed
  have issued := issueCommand_idle idle p.2
  simp only [List.mem_cons, List.not_mem_nil, or_false] at listed
  obtain rfl | rfl | rfl | rfl := listed <;> exact ⟨_, issued, rfl⟩

end Sys2Proof.Machine

/-! The error each command takes: Decode's three in their order (O17) and on the machine (O21), the two of ENCODE and CSUM
(O38), and all that any of them writes (O40). Last, blocks side by side (O48). -/

namespace Sys2Proof.Machine

/-! ## The errors of Decode -/

/-- Decode answers the first error of R172 that applies, and with none of them the header value, all over the wire's numbers. -/
theorem decodePacket_eq_first_error (bs : List Byte) :
    decodePacket bs =
      if bs.length < 20 then .error (.tooShort 20 bs.length)
      else if (byteAt bs 2).toNat * 256 + (byteAt bs 3).toNat ≠ bs.length then .error .lengthMismatch
      else if (byteAt bs 0).toNat % 16 < 5 ∨ bs.length < (byteAt bs 0).toNat % 16 * 4 then .error .malformed
      else .ok (parsedHeader bs) := by
  have total_eq : (parseFields bs).totalLength.toNat = (byteAt bs 2).toNat * 256 + (byteAt bs 3).toNat := halfAt_toNat bs 2
  rw [← total_eq, ← parseFields_ihl_toNat, ite_or]
  rfl

/-- Settles O17: each case of the statement is one branch of Decode. -/
theorem decodeErrorsComeInOrder : Obligations.DecodeErrorsComeInOrder := by
  intro bs
  rw [decodePacket_eq_first_error]
  refine ⟨fun short => if_pos short, fun long mismatch => ?_, fun long agree bad_ihl => ?_,
    fun long agree ihl_ge ihl_fits => ?_⟩
  · exact (if_neg (Nat.not_lt.mpr long)).trans (if_pos mismatch)
  · exact (if_neg (Nat.not_lt.mpr long)).trans ((if_neg (not_not_intro agree)).trans (if_pos bad_ihl))
  · exact ⟨_, (if_neg (Nat.not_lt.mpr long)).trans ((if_neg (not_not_intro agree)).trans
      (if_neg (not_or_intro (Nat.not_lt.mpr ihl_ge) (Nat.not_lt.mpr ihl_fits))))⟩

/-- E_TOO_SHORT names the 20 bytes it needs and the bytes there are (60_exceptions R166). -/
theorem decodePacket_tooShort_length {bs : List Byte} {required actual : Nat}
    (h : decodePacket bs = .error (.tooShort required actual)) : required = 20 ∧ actual = bs.length := by
  rw [decodePacket_eq_first_error] at h
  split_ifs at h
  all_goals cases h
  exact ⟨rfl, rfl⟩

/-- EACT after E_TOO_SHORT holds a 16-bit length whole (60_exceptions R166). -/
@[simp] theorem CodecError.actual_tooShort_toNat (required : Nat) (length : Half) :
    (CodecError.tooShort required length.toNat).actual = length := by
  simp [actual]

/-! ## The errors of DECODE -/

/-- Byte `i` of the buffer is BUF[i] (10_state R22). -/
theorem State.buffer_getD {s : State} {i : Nat} (h : i < s.blen.toNat) : s.buffer.getD i 0 = s.bufByte i := by
  simp [buffer, h]

/-- Settles O21: the buffer's bytes are those of BUF, and a latched DECODE takes the error Decode gives. -/
theorem decodeReportsItsErrors : Obligations.DecodeReportsItsErrors := by
  intro s latched
  obtain ⟨short, mismatch, malformed, -⟩ := decodeErrorsComeInOrder s.buffer
  rw [State.buffer_length] at short mismatch malformed
  have raises {e : CodecError} (h : decodePacket s.buffer = .error e) : complete s = s.raise e :=
    (complete_decode latched).trans (completeDecode_of_error h)
  refine ⟨fun few => ?_, fun enough differ => ?_, fun enough agree bad_ihl => ?_, fun past_end => by omega⟩
  · rw [raises (short few), State.raise, CodecError.actual_tooShort_toNat]
    rfl
  · rw [State.buffer_getD (by omega), State.buffer_getD (by omega)] at mismatch
    rw [raises (mismatch enough differ)]
    rfl
  · rw [State.buffer_getD (by omega), State.buffer_getD (by omega), State.buffer_getD (by omega)] at malformed
    rw [raises (malformed enough agree bad_ihl)]
    rfl

/-! ## The errors of ENCODE and CSUM -/

/-- Nothing that needs an encodable header value answers E_TOO_SHORT (42_encode R110). -/
theorem ifEncodable_ne_tooShort {α : Type} (n p : Nat) (x : α) (required actual : Nat) :
    ifEncodable n p x ≠ .error (.tooShort required actual) :=
  fun h => encodeError?_ne_tooShort n p required actual (ifEncodable_eq_error_iff.mp h)

/-- ENCODE and CSUM take the error the two lengths decide (60_exceptions R173). -/
theorem complete_of_encodeError {s : State} {e : CodecError} (latched : s.lop = .encode ∨ s.lop = .csum)
    (h : encodeError? s.nopt.toNat s.plen.toNat = some e) : complete s = s.raise e := by
  obtain encode | csum := latched
  · rw [complete_encode encode, completeEncode_of_error (ifEncodable_error h _)]
  · rw [complete_csum csum, completeCsum_of_error (ifEncodable_error h _)]

/-- Settles O38: either error is decided by the two lengths, the option count first. -/
theorem unencodableHeaderIsRefused : Obligations.UnencodableHeaderIsRefused := by
  refine fun s latched => ⟨fun many => ?_, fun few long => ?_⟩
  · rw [complete_of_encodeError latched (encodeError?_eq_tooManyOptions many)]
    rfl
  · rw [complete_of_encodeError latched (encodeError?_eq_lenOverflow few long)]
    rfl

/-! ## Every error -/

/-- A completion that leaves ERR other than 0 has taken an error, E_TOO_SHORT with 20 and BLEN (60_exceptions R166, R175). -/
theorem complete_failed {s : State} (h : (complete s).err ≠ 0#3) :
    ∃ e : CodecError, complete s = s.raise e ∧
      ∀ required actual, e = .tooShort required actual → required = 20 ∧ actual = s.blen.toNat := by
  cases latched : s.lop with
  | decode =>
    rw [complete_decode latched] at h ⊢
    obtain ⟨e, he, hc⟩ | ⟨H, -, hc⟩ := completeDecode_cases s
    · refine ⟨e, hc, fun required actual too_short => ?_⟩
      rw [← State.buffer_length]
      exact decodePacket_tooShort_length (too_short ▸ he)
    · simp [hc] at h
  | encode =>
    rw [complete_encode latched] at h ⊢
    obtain ⟨e, he, hc⟩ | ⟨bs, -, hc⟩ := completeEncode_cases s
    · exact ⟨e, hc, fun _ _ too_short => absurd (too_short ▸ he) (ifEncodable_ne_tooShort _ _ _ _ _)⟩
    · simp [hc] at h
  | csum =>
    rw [complete_csum latched] at h ⊢
    obtain ⟨e, he, hc⟩ | ⟨r, -, hc⟩ := completeCsum_cases s
    · exact ⟨e, hc, fun _ _ too_short => absurd (too_short ▸ he) (ifEncodable_ne_tooShort _ _ _ _ _)⟩
    · simp [hc] at h
  | verify => exact absurd (complete_verify latched ▸ completeVerify_err s) h

/-- The codes of R165. -/
theorem CodecError.code_le (e : CodecError) : e.code.toNat ≤ 5 := by
  cases e <;> simp [CodecError.code]

/-- Settles O40: a failing completion is `State.raise` of one error, and only E_TOO_SHORT has numbers to report. -/
theorem failedCommandChangesNothingElse : Obligations.FailedCommandChangesNothingElse := by
  intro s failed
  obtain ⟨e, hc, record⟩ := complete_failed failed
  rw [hc]
  refine ⟨rfl, e.code_le, ?_⟩
  cases e with
  | tooShort required actual =>
    obtain ⟨rfl, rfl⟩ := record required actual rfl
    exact ⟨fun _ => ⟨rfl, CodecError.actual_tooShort_toNat 20 s.blen⟩, fun other => absurd rfl other⟩
  | _ => exact ⟨fun too_short => absurd too_short (by simp [CodecError.code]), fun _ => ⟨rfl, rfl⟩⟩

/-! ## Blocks side by side -/

/-- A step of block `k` replaces that entry of the list (60_exceptions R181). -/
theorem stepBlock_eq_set {blocks : List State} {k : Nat} {s t : State} (at_k : blocks[k]? = some s) (h : step s = .next t) :
    stepBlock blocks k = blocks.set k t := by
  simp only [stepBlock, at_k, h]

/-- Settles O48: the one entry that is replaced is that of the block that steps. -/
theorem blocksShareNothing : Obligations.BlocksShareNothing := by
  intro blocks k s t at_k stepped
  rw [stepBlock_eq_set at_k stepped]
  obtain ⟨k_lt, -⟩ := List.getElem?_eq_some_iff.mp at_k
  exact ⟨List.getElem?_set_self k_lt, fun j other => List.getElem?_set_ne other.symm⟩

end Sys2Proof.Machine

/-! The busy interlock on every instruction (O7), and the reset event (O47). -/

namespace Sys2Proof.Machine

/-! ## A busy block -/

/-- While a command is in flight every access but RD STATUS is refused: A_BADREG where nothing is there, else A_BUSY
(60_exceptions R174). -/
theorem hostAccess_busy {kind : Kind} {index : BitVec 16} {data : Word} {perform : State → State × Option Word} {s : State}
    (busy : s.busy = true) (not_status : ¬ (kind = .rd ∧ index = 33#16)) :
    ∃ r : Response, (r = .busy ∨ r = .badReg) ∧ hostAccess kind index data perform s = .next (s.respond r none) := by
  have response : accessCheck kind index data s.busy = .busy ∨ accessCheck kind index data s.busy = .badReg := by
    cases present : accessExists kind index with
    | false => exact .inr (accessCheck_eq_badReg present data s.busy)
    | true => exact .inl (busy ▸ accessCheck_eq_busy present not_status data)
  have refused : accessCheck kind index data s.busy ≠ .ok := by obtain h | h := response <;> simp [h]
  exact ⟨_, response, hostAccess_refused refused perform⟩

/-- Settles O7: RD STATUS passes the interlock, and every other instruction is an access that does not. -/
theorem busyBlockAdmitsOnlyRdStatus : Obligations.BusyBlockAdmitsOnlyRdStatus := by
  refine fun i s busy => ⟨?_, fun other => ?_⟩
  · rintro rfl
    exact exec_rd_ok (accessCheck_rd_status s.busy)
  · cases i <;> simp only [exec, execDecode, execEncode, execCsum, execVerify, execRd, execWr, execLdb, execStb, execLdp,
      execStp, execReserved, issueCommand] <;> refine hostAccess_busy busy ?_
    case rd index => exact fun ⟨_, at_status⟩ => other (congrArg Instr.rd at_status)
    all_goals simp -- no other kind is `.rd`

/-! ## Reset -/

/-- Settles O47: the event is taken and the block is reset, after which it is idle. -/
theorem resetAbandonsTheCommand : Obligations.ResetAbandonsTheCommand := by
  intro s rest early next
  have host_turn : s.engineTurn = false := by simpa [State.engineTurn, next] using early
  refine ⟨(s.takeEvent rest).resetEvent, step_reset host_turn next, rfl, rfl, ?_⟩
  rintro rfl
  exact step_idle (by simp [State.engineTurn]) rfl

end Sys2Proof.Machine
